-- ==== Sys2Proof/Word.lean ====
section
/-! DEFINITION. The word types of the block and the two fixed groups of bytes it latches: the four bytes of
`BCD` and `P`, and the five bytes of a frame (00_scope.md R7, R8; 10_state.md R27, R28, R30). -/

namespace Sys2Proof

/-- A byte (00_scope.md R7). -/
abbrev Byte := BitVec 8

/-- The 4-bit fields of a command byte and of a BCD byte. -/
abbrev Nibble := BitVec 4

/-- The width of `TIMEOUT` and `TIMER` (`TIMEOUT_W`, 00_scope.md R5). -/
abbrev Half := BitVec 16

/-- The width of `VALUE` (`VALUE_W`, 00_scope.md R5). -/
abbrev Word := BitVec 32

/-- Four bytes, byte 0 first: `BCD0..BCD3` or `P0..P3` (10_state.md R27, R28). -/
structure Quad where
  b0 : Byte
  b1 : Byte
  b2 : Byte
  b3 : Byte
deriving DecidableEq, Repr, Inhabited

/-- The five bytes of a command frame, byte 0 first, the opcode last (30_encoding.md R86). -/
structure Frame where
  b0 : Byte
  b1 : Byte
  b2 : Byte
  b3 : Byte
  opc : Byte
deriving DecidableEq, Repr, Inhabited

end Sys2Proof
end

