-- ==== Sys2Proof/Config.lean ====
section
/-! DEFINITION. The parameters of 00_scope.md R5, the answers of the environment (R10 to R12) and the values the
spec leaves open, each an opaque constant: nothing can be proved of a free value but that it is one. -/

namespace Sys2Proof

/-- The answer of the transport to `tx_write_all` (00_scope.md R10). `error sent`: a hard error after `sent` of the
bytes were on the wire. The block learns only that it failed (41_frame_codec.md R139). -/
inductive TxAnswer where
  | ok
  | error (sent : Nat)
deriving DecidableEq, Repr, Inhabited

/-- The four outcomes of one readiness wait (00_scope.md R11). -/
inductive WaitOutcome where
  | ready
  | timeout
  | transient
  | hardError
deriving DecidableEq, Repr, Inhabited

/-- What the environment does during one wait: `elapsed` ticks after the timer was loaded the conditions marked true
are present; none marked means that nothing happens. Several may be present at once (42_response_accumulator.md R162). -/
structure WaitAnswer where
  elapsed : Nat
  hardError : Bool
  ready : Bool
  transient : Bool
deriving DecidableEq, Repr, Inhabited

/-- What the transport delivers to `rx_read` (00_scope.md R12). `bytes []` says that the channel is closed; a delivery
longer than the capacity asked for is delivered in part, and its rest stays waiting (20_memory.md R66). -/
inductive ReadAnswer where
  | error
  | bytes (bs : List Byte)
deriving DecidableEq, Repr, Inhabited

namespace Config

/-- `FRAME_LEN` (00_scope.md R5). -/
def frameLen : Nat := 5

/-- `NPARAM` (00_scope.md R5). -/
def nParam : Nat := 4

/-- `MAXDIGITS` (00_scope.md R5). -/
def maxDigits : Nat := 8

/-- `DIGITS_LEGAL` (00_scope.md R5, 30_encoding.md R82). -/
def digitsLegal : List Nibble := [2, 4, 6, 8]

/-- `BUFCAP` (00_scope.md R5, 20_memory.md R60). -/
def bufCap : Nat := 128

/-- `TICK`, in milliseconds (00_scope.md R5). -/
def tickMs : Nat := 1

/-- `SETTLE`, the radio's settle time in milliseconds: OPEN (00_scope.md R5, 70_reset_and_hazards.md R259). No
definition of the model reads it. -/
opaque settleMs : Nat

/-- FREE: the answer to the `n`-th drawn `tx_write_all` (00_scope.md R9, R10; log 1). -/
opaque txDraw : Nat → TxAnswer

/-- FREE: the `n`-th drawn wait (00_scope.md R9, R11; log 1). -/
opaque waitDraw : Nat → WaitAnswer

/-- FREE: the `n`-th drawn delivery (00_scope.md R9, R12; log 1). -/
opaque readDraw : Nat → ReadAnswer

/-- FREE: what cell `i` of `BUF` holds after reset number `r` until an ACC stores to it
(20_memory.md R63, 93_implementation_defined.md U1; log 4). -/
opaque bufDraw : Nat → Nat → Byte

end Config

end Sys2Proof
end

