-- ==== Sys2Proof/Syntax.lean ====
section
/-! DEFINITION. The instructions: one constructor per row of spec/opcode_table.json, six commands of format CMD8
(30_encoding.md R81) and nine CAT frames of format CAT5 (R88). -/

namespace Sys2Proof

/-- An instruction. `PACK` and `UNPACK` carry `CMD[3:0]`, every value of which decodes (R83); a CAT frame carries its
four parameter bytes, which take no part in selecting it (R89). -/
inductive Instr where
  | pack (d : Nibble)
  | unpack (d : Nibble)
  | build
  | check
  | send
  | acc
  | probe (p0 p1 p2 p3 : Byte)
  | tune (p0 p1 p2 p3 : Byte)
  | setmode (p0 p1 p2 p3 : Byte)
  | readfreq (p0 p1 p2 p3 : Byte)
  | ctcssdcs (p0 p1 p2 p3 : Byte)
  | ctcsstone (p0 p1 p2 p3 : Byte)
  | rptdir (p0 p1 p2 p3 : Byte)
  | rptofs (p0 p1 p2 p3 : Byte)
  | eeread (p0 p1 p2 p3 : Byte)
deriving DecidableEq, Repr, Inhabited

end Sys2Proof
end

