-- ==== Sys2Proof/WellFormed.lean ====
section
/-! DEFINITION. Well-formed instructions: a digit count of DIGITS_LEGAL (30_encoding.md R82) and, for a CAT frame, the
parameter layout of its opcode (R87, R91, R92). The block runs the others too: an illegal digit count raises an error
(R83) and a frame off its layout is built and sent like any other (R93). -/

namespace Sys2Proof

/-- A byte whose two nibbles are decimal digits (40_bcd_codec.md R111). -/
def isDecimalPair (b : Byte) : Bool :=
  (b.toNat / 16 ≤ 9) && (b.toNat % 16 ≤ 9)

/-- Layout Z: four zero bytes (30_encoding.md R87). -/
def isLayoutZ (p0 p1 p2 p3 : Byte) : Bool :=
  p0 == 0 && p1 == 0 && p2 == 0 && p3 == 0

/-- Layout B8: eight BCD digits (30_encoding.md R87). -/
def isLayoutB8 (p0 p1 p2 p3 : Byte) : Bool :=
  isDecimalPair p0 && isDecimalPair p1 && isDecimalPair p2 && isDecimalPair p3

/-- Layout B4: four BCD digits and two zero bytes (30_encoding.md R87). -/
def isLayoutB4 (p0 p1 p2 p3 : Byte) : Bool :=
  isDecimalPair p0 && isDecimalPair p1 && p2 == 0 && p3 == 0

/-- Layouts E and A: the bytes after the field are zero; `used` is how many bytes the field has
(30_encoding.md R87). -/
def zeroAfter (used : Nat) (p1 p2 p3 : Byte) : Bool :=
  (used ≥ 2 || p1 == 0) && p2 == 0 && p3 == 0

/-- The direction bytes of `RPTDIR`: PLUS, MINUS, SIMPLEX (30_encoding.md R91). -/
def rptDirValues : List Byte := [0x49, 0x09, 0x89]

/-- The documented value set of `CTCSSDCS` (30_encoding.md R92). -/
def ctcssDcsValues : List Byte := [0x2A, 0x4A, 0x8A]

/-- The instruction is one the source gives a meaning (30_encoding.md R82, R87, R93). -/
def wellFormed : Instr → Bool
  | .pack d => Config.digitsLegal.contains d
  | .unpack d => Config.digitsLegal.contains d
  | .build => true
  | .check => true
  | .send => true
  | .acc => true
  | .probe p0 p1 p2 p3 => isLayoutZ p0 p1 p2 p3
  | .tune p0 p1 p2 p3 => isLayoutB8 p0 p1 p2 p3
  | .setmode _ p1 p2 p3 => zeroAfter 1 p1 p2 p3
  | .readfreq p0 p1 p2 p3 => isLayoutZ p0 p1 p2 p3
  | .ctcssdcs p0 p1 p2 p3 => ctcssDcsValues.contains p0 && zeroAfter 1 p1 p2 p3
  | .ctcsstone p0 p1 p2 p3 => isLayoutB4 p0 p1 p2 p3
  | .rptdir p0 p1 p2 p3 => rptDirValues.contains p0 && zeroAfter 1 p1 p2 p3
  | .rptofs p0 p1 p2 p3 => isLayoutB4 p0 p1 p2 p3
  | .eeread _ p1 p2 p3 => zeroAfter 2 p1 p2 p3

end Sys2Proof
end

