-- ==== Sys2Proof/Decode.lean ====
section
/-! DEFINITION. The decoder (30_encoding.md R80 to R83, R86 to R89), total on any bytes and rejecting by name, and
after it the encoder. A command is one byte and a frame five, and nothing else changes how either is read (R96). -/

namespace Sys2Proof

/-- Why bytes are no instruction. -/
inductive DecodeError where
  /-- No command has this code (R83): writing the byte to CMD raises ILLEGAL_COMMAND. -/
  | noSuchCommand (c : Byte)
  /-- A non-zero `imm` on a command that takes none (R83): writing the byte to CMD raises ILLEGAL_COMMAND. -/
  | immediateNotZero (c : Byte)
  /-- The opcode is none of the nine (R88). Such a frame is still built and sent (R93). -/
  | noSuchOpcode (op : Byte)
  /-- Neither one byte nor five (R96). -/
  | badLength (n : Nat)
deriving DecidableEq, Repr

/-- `CMD[7:4]` (30_encoding.md R80). -/
def codeOf (c : Byte) : Nibble := c.extractLsb' 4 4

/-- `CMD[3:0]` (30_encoding.md R80). -/
def immOf (c : Byte) : Nibble := c.extractLsb' 0 4

/-- A command that takes no immediate: `imm` must be 0 (30_encoding.md R80, R83). -/
def bareCommand (c : Byte) (i : Instr) : Except DecodeError Instr :=
  if immOf c = 0 then .ok i else .error (.immediateNotZero c)

/-- The command a byte written to CMD encodes (30_encoding.md R81, R83). -/
def decodeCommand (c : Byte) : Except DecodeError Instr :=
  match (codeOf c).toNat with
  | 1 => .ok (.pack (immOf c))
  | 2 => .ok (.unpack (immOf c))
  | 3 => bareCommand c .build
  | 4 => bareCommand c .check
  | 5 => bareCommand c .send
  | 6 => bareCommand c .acc
  | _ => .error (.noSuchCommand c)

/-- The CAT command of a frame, by its opcode byte alone (30_encoding.md R88, R89). -/
def decodeFrame (f : Frame) : Except DecodeError Instr :=
  match f.opc.toNat with
  | 0xA7 => .ok (.probe f.b0 f.b1 f.b2 f.b3)
  | 0x01 => .ok (.tune f.b0 f.b1 f.b2 f.b3)
  | 0x07 => .ok (.setmode f.b0 f.b1 f.b2 f.b3)
  | 0x03 => .ok (.readfreq f.b0 f.b1 f.b2 f.b3)
  | 0x0A => .ok (.ctcssdcs f.b0 f.b1 f.b2 f.b3)
  | 0x0B => .ok (.ctcsstone f.b0 f.b1 f.b2 f.b3)
  | 0x09 => .ok (.rptdir f.b0 f.b1 f.b2 f.b3)
  | 0xF9 => .ok (.rptofs f.b0 f.b1 f.b2 f.b3)
  | 0xBB => .ok (.eeread f.b0 f.b1 f.b2 f.b3)
  | _ => .error (.noSuchOpcode f.opc)

/-- The decoder on any bytes: one byte is a command, five are a frame (30_encoding.md R96). -/
def decode : List Byte → Except DecodeError Instr
  | [c] => decodeCommand c
  | [b0, b1, b2, b3, op] => decodeFrame ⟨b0, b1, b2, b3, op⟩
  | bs => .error (.badLength bs.length)

/-- The byte of a command: `code` in 7:4, `imm` in 3:0 (30_encoding.md R80). -/
def commandByte (code imm : Nibble) : Byte := code ++ imm

/-- The bytes of an instruction, first byte first (30_encoding.md R81, R86, R88). -/
def encode : Instr → List Byte
  | .pack d => [commandByte 0x1 d]
  | .unpack d => [commandByte 0x2 d]
  | .build => [commandByte 0x3 0]
  | .check => [commandByte 0x4 0]
  | .send => [commandByte 0x5 0]
  | .acc => [commandByte 0x6 0]
  | .probe p0 p1 p2 p3 => [p0, p1, p2, p3, 0xA7]
  | .tune p0 p1 p2 p3 => [p0, p1, p2, p3, 0x01]
  | .setmode p0 p1 p2 p3 => [p0, p1, p2, p3, 0x07]
  | .readfreq p0 p1 p2 p3 => [p0, p1, p2, p3, 0x03]
  | .ctcssdcs p0 p1 p2 p3 => [p0, p1, p2, p3, 0x0A]
  | .ctcsstone p0 p1 p2 p3 => [p0, p1, p2, p3, 0x0B]
  | .rptdir p0 p1 p2 p3 => [p0, p1, p2, p3, 0x09]
  | .rptofs p0 p1 p2 p3 => [p0, p1, p2, p3, 0xF9]
  | .eeread p0 p1 p2 p3 => [p0, p1, p2, p3, 0xBB]

/-- The five bytes of a frame in the order of the wire (20_memory.md R64). -/
def frameBytes (f : Frame) : List Byte := [f.b0, f.b1, f.b2, f.b3, f.opc]

/-- The four parameter bytes of a frame (30_encoding.md R86). -/
def frameParams (f : Frame) : Quad := ⟨f.b0, f.b1, f.b2, f.b3⟩

/-- Byte `i` of the 40-bit frame word is `F[39-8i : 32-8i]` (00_scope.md R8). -/
def frameWordByte (w i : Nat) : Byte := BitVec.ofNat 8 (w / 2 ^ (32 - 8 * i))

/-- The frame of a 40-bit frame word, the opcode in bits 7:0 (00_scope.md R8). -/
def frameOfWord (w : Nat) : Frame :=
  ⟨frameWordByte w 0, frameWordByte w 1, frameWordByte w 2, frameWordByte w 3, frameWordByte w 4⟩

/-- What the decoder reads from a word numbered as the opcode table numbers it (log 7). -/
def decodeTableWord (nbits w : Nat) : Option Instr :=
  match nbits with
  | 8 => (decode [BitVec.ofNat 8 w]).toOption
  | 40 => (decode (frameBytes (frameOfWord w))).toOption
  | _ => none

end Sys2Proof
end

