-- ==== Sys2Proof/Machine/State.lean ====
section
/-! DEFINITION. The state of the machine as plain data: the block (10_state.md R20), its environment and its host
(00_scope.md R15), the reasons a step can stop, and the state after reset (10_state.md R46). -/

namespace Sys2Proof.Machine

/-- `STATUS.ERR` (60_exceptions.md R220). Codes 6 and 7 are never produced. -/
inductive ErrCode where
  | none
  | illegalCommand
  | illegalOperand
  | frameNotBuilt
  | txError
  | rxError
deriving DecidableEq, Repr

/-- `STATUS.CAUSE` (10_state.md R34). Codes 5 to 7 are never produced. -/
inductive Cause where
  | none
  | minReached
  | timeout
  | closed
  | hardError
deriving DecidableEq, Repr

/-- `RSTATE` (10_state.md R40). Code 3 is never entered. -/
inductive RState where
  | idle
  | wait
  | read
deriving DecidableEq, Repr

/-- The fields of `STATUS`; they cover all its eight bits (10_state.md R25). -/
structure Status where
  cause : Cause
  fvalid : Bool
  fok : Bool
  err : ErrCode
deriving DecidableEq, Repr

/-- The cells of `BUF` written since reset, addresses strictly rising. An address not listed holds no written byte
(20_memory.md R60, R63; log 4). -/
abbrev Memory := List Host.Cell

/-- What became of the five bytes of a request to the transport (41_frame_codec.md R137, R139;
70_reset_and_hazards.md R250). -/
inductive TxFate where
  /-- All five bytes were written. -/
  | whole
  /-- A hard error after `sent` bytes. -/
  | failed (sent : Nat)
  /-- The block was reset after `sent` bytes. -/
  | cutByReset (sent : Nat)
deriving DecidableEq, Repr

/-- One request to the transport and its fate. -/
structure TxRecord where
  frame : Frame
  fate : TxFate
deriving DecidableEq, Repr

/-- The environment: the transport and, through it, the radio (00_scope.md R9 to R12, R15). The lists hold the answers
to come; where a list is empty the answer is a free value of Config, numbered by `draws` (log 1). -/
structure Transport where
  opened : Bool
  tx : List TxAnswer
  waits : List WaitAnswer
  reads : List ReadAnswer
  draws : Nat
  wire : List TxRecord
deriving DecidableEq, Repr

/-- A byte of the trace output: handed to the transport or taken from it (10_state.md R24; log 15). -/
inductive TraceItem where
  | sent (b : Byte)
  | received (b : Byte)
deriving DecidableEq, Repr

/-- The reset input at one access of a host sequence (70_reset_and_hazards.md R250; log 14). -/
inductive Level where
  | low
  /-- Asserted between the access before it and this one. -/
  | high
  /-- Asserted while this access, a SEND, waits for the transport, after `sent` bytes. -/
  | duringSend (sent : Nat)
deriving DecidableEq, Repr

/-- The reset input at one step (70_reset_and_hazards.md R250; log 14). -/
inductive ResetIn where
  | off
  /-- Asserted before the step does anything else. -/
  | on
  /-- The level at each access of the step, in order; `low` beyond the list. -/
  | within (levels : List Level)
deriving DecidableEq, Repr

/-- The host sequence that awaits the end of an ACC (44_cat_commands.md R196, R200, R207, R208, R212; log 8). -/
inductive Task where
  | probe
  | readFreq
  | eeRead (addr : Half)
  | flush
  | dump
deriving DecidableEq, Repr

/-- A request of the host: a statement of 30_encoding.md R85, a CAT frame (R88) or a pseudo-operation with a number
for operand (R97). A command is `wr 0x02 c`. -/
inductive Request where
  | rd (num : Byte)
  | wr (num : Byte) (v : Word)
  | rdbuf (i : Nat)
  | frame (f : Frame)
  | tune (fHz : Nat)
  | ctcssTone (t : Nat)
  | rptOfs (oHz : Nat)
  | flush
  | dump
  /-- The next address of a running DUMP (44_cat_commands.md R212). -/
  | dumpNext
deriving DecidableEq, Repr

/-- What the host's policies find (44_cat_commands.md R194 to R212; log 16). -/
inductive Report where
  /-- A frame without a response was sent. -/
  | frameSent (op : Byte)
  /-- A write failure on a frame, fatal for the operation (R194). -/
  | writeFailed (op : Byte)
  /-- Fewer than 9 bytes of identity, fatal (R196). -/
  | probeFatal (count : Byte)
  /-- The identity; `surplus` warns of more than 9 bytes (R196). -/
  | identity (bytes : List Byte) (surplus : Bool)
  /-- The frequency in hertz and the mode byte; `exact` is false on a length mismatch (R200). -/
  | frequency (fHz : Nat) (mode : Byte) (exact : Bool)
  /-- The bytes an EEPROM read returned, of which `count` were received (R208). -/
  | cell (addr : Half) (count b0 b1 : Byte)
  | flushed
  /-- The progress marker of a 256-byte page (R212). -/
  | progress (addr : Nat)
  /-- A one-byte read: a warning, and the dump continues (R208, R212). -/
  | dumpShort (addr : Nat)
  /-- A zero-byte read stopped the dump (R212). -/
  | dumpStopped (addr : Nat)
  | dumpDone
deriving DecidableEq, Repr

/-- The host: its coming requests, the sequence that awaits an ACC, what it has read, its reports and the EEPROM image
of DUMP (00_scope.md R15, 44_cat_commands.md). -/
structure HostAgent where
  queue : List Request
  task : Option Task
  results : List Word
  reports : List Report
  image : List Byte
deriving DecidableEq, Repr

/-- The whole machine. The first block of fields is 10_state.md R21, then `BUF` (20_memory.md R60) and the hidden
registers (10_state.md R40 to R42); the rest is output, input and the two other agents. -/
structure State where
  ctrl : Byte
  status : Status
  value : Word
  bcd : Quad
  p : Quad
  op : Byte
  maxlen : Byte
  minlen : Byte
  timeout : Half
  count : Byte
  frame : Frame
  buf : Memory
  rstate : RState
  offset : Byte
  timer : Half
  trace : List TraceItem
  resetIn : List ResetIn
  resets : Nat
  env : Transport
  host : HostAgent
deriving DecidableEq, Repr

/-- The one way the machine stops with a fault. -/
inductive Fault where
  /-- Raised by a read step of RACC whose state breaks `OFFSET < MAXLEN <= BUFCAP`
  (42_response_accumulator.md R153): a store would leave `BUF`. No run reaches such a state. Safe. -/
  | accumulatorOutOfRange
deriving DecidableEq, Repr

/-- Requests the model gives no step. -/
inductive Refusal where
  /-- Raised by an arm of exec without a meaning: there is none. Safe. -/
  | notModelled (mnemonic : String)
  /-- Raised by RD or WR of a number that names no register (10_state.md R36). Safe. -/
  | reservedRegister (num : Byte)
  /-- Raised by RD CMD (10_state.md R36). Safe. -/
  | readOfWriteOnly (num : Byte)
  /-- Raised by WR of STATUS, COUNT or FRAME0..FRAME4 (10_state.md R36). Safe. -/
  | writeOfReadOnly (num : Byte)
  /-- Raised by RDBUF i with i >= 128 (20_memory.md R72). Safe. -/
  | reservedBufferIndex (i : Nat)
  /-- Raised by a WR whose value is wider than its register, which no transaction can express
  (43_host_access.md R182; log 11). Safe. -/
  | valueTooWide (num : Byte)
  /-- Raised by SEND, ACC and every CAT operation when the transport was never opened
  (70_reset_and_hazards.md R252; log 10). Safe. -/
  | transportNotOpen
deriving DecidableEq, Repr

/-- The environment and the host of the launch premise: the transport is open, nothing is scripted, nothing was sent
(70_reset_and_hazards.md R252; log 1, 10). -/
def Transport.fresh : Transport :=
  { opened := true, tx := [], waits := [], reads := [], draws := 0, wire := [] }

/-- A host that has asked for nothing yet (log 6). -/
def HostAgent.fresh : HostAgent :=
  { queue := [], task := none, results := [], reports := [], image := [] }

/-- The machine right after reset (10_state.md R46). -/
def State.reset : State :=
  { ctrl := 0
    status := { cause := .none, fvalid := false, fok := false, err := .none }
    value := 0
    bcd := ⟨0, 0, 0, 0⟩
    p := ⟨0, 0, 0, 0⟩
    op := 0
    maxlen := 0
    minlen := 0
    timeout := 0
    count := 0
    frame := ⟨0, 0, 0, 0, 0⟩
    buf := []
    rstate := .idle
    offset := 0
    timer := 0
    trace := []
    resetIn := []
    resets := 0
    env := Transport.fresh
    host := HostAgent.fresh }

end Sys2Proof.Machine
end

