-- ==== Sys2Proof/Machine/Operands.lean ====
section
/-! DEFINITION. Operand forms and the arithmetic on them: the bytes of a Quad by index, decimal pairs, the pack and
unpack loops (40_bcd_codec.md R111, R112, R116) and the parameter layouts of a frame (30_encoding.md R87). -/

namespace Sys2Proof.Machine

/-- `q[k]` for `k = 0..3` (10_state.md R21). -/
def quadGet (q : Quad) : Nat → Byte
  | 0 => q.b0
  | 1 => q.b1
  | 2 => q.b2
  | _ => q.b3

/-- `q[k] <- b` for `k = 0..3`. -/
def quadSet (q : Quad) (k : Nat) (b : Byte) : Quad :=
  match k with
  | 0 => { q with b0 := b }
  | 1 => { q with b1 := b }
  | 2 => { q with b2 := b }
  | _ => { q with b3 := b }

/-- The high nibble of a byte, `b[7:4]` (00_scope.md R7). -/
def tensOf (b : Byte) : Nat := b.toNat / 16

/-- The low nibble of a byte, `b[3:0]` (00_scope.md R7). -/
def onesOf (b : Byte) : Nat := b.toNat % 16

/-- Tens in the high nibble, ones in the low nibble of a number below 100 (40_bcd_codec.md R112). -/
def pairByte (pair : Nat) : Byte := BitVec.ofNat 4 (pair / 10) ++ BitVec.ofNat 4 (pair % 10)

/-- The loop of PACK: `n` bytes stored from index `n-1` down to 0, least significant pair first
(40_bcd_codec.md R112, R124). -/
def packLoop : Nat → Nat → Quad → Quad
  | 0, _, q => q
  | k + 1, v, q => packLoop k (v / 100) (quadSet q k (pairByte (v % 100)))

/-- The BCD field of the number `v` in `n` bytes, zero bytes after it (40_bcd_codec.md R112, R125). -/
def packField (n v : Nat) : Quad := packLoop n v ⟨0, 0, 0, 0⟩

/-- The loop of UNPACK over bytes 0 to n-1, most significant first (40_bcd_codec.md R116). -/
def unpackField (q : Quad) : Nat → Nat
  | 0 => 0
  | k + 1 => unpackField q k * 100 + tensOf (quadGet q k) * 10 + onesOf (quadGet q k)

/-- `n = d div 2`, the bytes of a field of `d` digits (40_bcd_codec.md R110). -/
def fieldBytes (d : Nibble) : Nat := d.toNat / 2

/-- The test of the digit count (40_bcd_codec.md R112, R116; 30_encoding.md R82). -/
def digitsLegal (d : Nibble) : Bool := Config.digitsLegal.contains d

/-- Layout Z (30_encoding.md R87). -/
def layoutZ (opc : Byte) : Frame := ⟨0, 0, 0, 0, opc⟩

/-- Layouts B8 and B4: the four bytes PACK left (30_encoding.md R87). -/
def layoutB (q : Quad) (opc : Byte) : Frame := ⟨q.b0, q.b1, q.b2, q.b3, opc⟩

/-- Layout E: one enumerated byte (30_encoding.md R87). -/
def layoutE (e opc : Byte) : Frame := ⟨e, 0, 0, 0, opc⟩

/-- Layout A: an address, high byte first (30_encoding.md R87). -/
def layoutA (a : Half) (opc : Byte) : Frame :=
  ⟨a.extractLsb' 8 8, a.extractLsb' 0 8, 0, 0, opc⟩

/-- The address of an `EEREAD` frame (44_cat_commands.md R208). -/
def addressOf (p0 p1 : Byte) : Half := p0 ++ p1

/-- The `PROBE` frame (44_cat_commands.md R196). -/
def frameProbe : Frame := layoutZ 0xA7

/-- The `SETMODE m` frame (44_cat_commands.md R199). -/
def frameSetMode (m : Byte) : Frame := layoutE m 0x07

/-- The `READFREQ` frame (44_cat_commands.md R200). -/
def frameReadFreq : Frame := layoutZ 0x03

/-- The `CTCSSDCS e` frame (44_cat_commands.md R202). -/
def frameCtcssDcs (e : Byte) : Frame := layoutE e 0x0A

/-- The `RPTDIR r` frame (44_cat_commands.md R204). -/
def frameRptDir (r : Byte) : Frame := layoutE r 0x09

/-- The `EEREAD a` frame (44_cat_commands.md R208). -/
def frameEeRead (a : Half) : Frame := layoutA a 0xBB

end Sys2Proof.Machine
end

