-- ==== Sys2Proof/Machine/Flags.lean ====
section
/-! DEFINITION. The flags: the codes of `STATUS`, its byte, the comparison of CHECK, and what a command writes to it
(10_state.md R25, R34, R35; 60_exceptions.md R220, R221). -/

namespace Sys2Proof.Machine

/-- The code of `STATUS.ERR` (60_exceptions.md R220). -/
def errBits : ErrCode → BitVec 3
  | .none => 0
  | .illegalCommand => 1
  | .illegalOperand => 2
  | .frameNotBuilt => 3
  | .txError => 4
  | .rxError => 5

/-- The code of `STATUS.CAUSE` (10_state.md R34). -/
def causeBits : Cause → BitVec 3
  | .none => 0
  | .minReached => 1
  | .timeout => 2
  | .closed => 3
  | .hardError => 4

/-- The code of `RSTATE` (10_state.md R40). -/
def rstateBits : RState → BitVec 2
  | .idle => 0
  | .wait => 1
  | .read => 2

/-- `STATUS` as one byte, `ERR ‖ FOK ‖ FVALID ‖ CAUSE` (10_state.md R25). -/
def statusByte (st : Status) : Byte :=
  errBits st.err ++ BitVec.ofBool st.fok ++ BitVec.ofBool st.fvalid ++ causeBits st.cause

/-- `ERR` of a byte that RD STATUS returned, `STATUS[7:5]` (10_state.md R25). -/
def errField (b : Byte) : BitVec 3 := b.extractLsb' 5 3

/-- `STATUS.ERR <- c` (60_exceptions.md R221). -/
def setErr (c : ErrCode) (s : State) : State := { s with status := { s.status with err := c } }

/-- The comparison of CHECK (41_frame_codec.md R134). -/
def frameMatches (s : State) : Bool :=
  s.status.fvalid && (s.frame == ⟨s.p.b0, s.p.b1, s.p.b2, s.p.b3, s.op⟩)

/-- `CTRL.TRACE` (10_state.md R24). -/
def traceOn (s : State) : Bool := s.ctrl.getLsbD 0

end Sys2Proof.Machine
end

