-- ==== Sys2Proof/Machine/Ops.lean ====
section
/-! DEFINITION. The named operations over the buffer, the registers and the transport. Nothing else in the model reads
or writes them by other means. -/

namespace Sys2Proof.Machine

/-! ### Taking an error (60_exceptions.md R221) -/

/-- `raise Err(c)`: the command ends and only `STATUS.ERR` is written. It is what the block has in place of taking an
exception; nothing is saved and there is no return (60_exceptions.md R221, R229, R232). -/
def raise (c : ErrCode) (s : State) : State := setErr c s

/-! ### The response buffer (20_memory.md R60 to R63) -/

/-- The byte written last at an address since reset, if any. -/
def Memory.read : Memory → Nat → Option Byte
  | [], _ => none
  | (x, c) :: m, a => if a = x then some c else Memory.read m a

/-- Write one byte, keeping the addresses strictly rising. -/
def Memory.write : Memory → Nat → Byte → Memory
  | [], a, b => [(a, b)]
  | (x, c) :: m, a, b =>
    if a < x then (a, b) :: (x, c) :: m
    else if a = x then (a, b) :: m
    else (x, c) :: Memory.write m a b

/-- Every address listed is above `lo`, and they rise strictly. -/
def Memory.risingFrom : Nat → Memory → Bool
  | _, [] => true
  | lo, (x, _) :: m => decide (lo ≤ x) && Memory.risingFrom (x + 1) m

/-- The canonical form: addresses strictly rising. No entry can equal what an unlisted address holds, which is no
written byte (log 4). -/
def Memory.wf (m : Memory) : Bool := Memory.risingFrom 0 m

/-- Every cell lies in `BUF` (20_memory.md R60). -/
def Memory.inRange (m : Memory) : Bool := m.all (fun c => decide (c.1 < Config.bufCap))

/-- The stores of one read, in arrival order (42_response_accumulator.md R156). -/
def Memory.store (m : Memory) (a : Nat) : List Byte → Memory
  | [] => m
  | b :: bs => Memory.store (m.write a b) (a + 1) bs

/-- `BUF[i]`: the byte written last, or the free value of a cell no ACC has written since reset
(20_memory.md R63; log 4). -/
def readBuf (s : State) (i : Nat) : Byte :=
  match s.buf.read i with
  | some b => b
  | none => Config.bufDraw s.resets i

/-! ### Registers (10_state.md R21, R36; 43_host_access.md R181, R182) -/

/-- The value of a readable register, or the refusal of a reserved read (43_host_access.md R181). -/
def readReg (s : State) (num : Byte) : Except Refusal Word :=
  match num.toNat with
  | 0x00 => .ok (s.ctrl.setWidth 32)
  | 0x01 => .ok ((statusByte s.status).setWidth 32)
  | 0x02 => .error (.readOfWriteOnly num)
  | 0x03 => .ok s.value
  | 0x04 => .ok (s.bcd.b0.setWidth 32)
  | 0x05 => .ok (s.bcd.b1.setWidth 32)
  | 0x06 => .ok (s.bcd.b2.setWidth 32)
  | 0x07 => .ok (s.bcd.b3.setWidth 32)
  | 0x08 => .ok (s.p.b0.setWidth 32)
  | 0x09 => .ok (s.p.b1.setWidth 32)
  | 0x0A => .ok (s.p.b2.setWidth 32)
  | 0x0B => .ok (s.p.b3.setWidth 32)
  | 0x0C => .ok (s.op.setWidth 32)
  | 0x0D => .ok (s.maxlen.setWidth 32)
  | 0x0E => .ok (s.minlen.setWidth 32)
  | 0x0F => .ok (s.timeout.setWidth 32)
  | 0x10 => .ok (s.count.setWidth 32)
  | 0x11 => .ok (s.frame.b0.setWidth 32)
  | 0x12 => .ok (s.frame.b1.setWidth 32)
  | 0x13 => .ok (s.frame.b2.setWidth 32)
  | 0x14 => .ok (s.frame.b3.setWidth 32)
  | 0x15 => .ok (s.frame.opc.setWidth 32)
  | _ => .error (.reservedRegister num)

/-- Write an 8-bit register; a value that does not fit it is no transaction (43_host_access.md R182). -/
def write8 (num : Byte) (v : Word) (put : Byte → State) : Except Refusal State :=
  if v.toNat < 2 ^ 8 then .ok (put (v.setWidth 8)) else .error (.valueTooWide num)

/-- Write a 16-bit register. -/
def write16 (num : Byte) (v : Word) (put : Half → State) : Except Refusal State :=
  if v.toNat < 2 ^ 16 then .ok (put (v.setWidth 16)) else .error (.valueTooWide num)

/-- `CTRL <- v`: only bit 0 is stored (10_state.md R24). -/
def setCtrl (v : Byte) (s : State) : State := { s with ctrl := v &&& 1 }

/-- `VALUE <- v` (10_state.md R22). -/
def wrValue (v : Word) (s : State) : State := { s with value := v }

/-- `BCD[k] <- b` (10_state.md R27). -/
def wrBcd (k : Nat) (b : Byte) (s : State) : State := { s with bcd := quadSet s.bcd k b }

/-- `P[k] <- b` (10_state.md R28). -/
def wrP (k : Nat) (b : Byte) (s : State) : State := { s with p := quadSet s.p k b }

/-- `OP <- b` (10_state.md R29). -/
def wrOp (b : Byte) (s : State) : State := { s with op := b }

/-- `MAXLEN <- b` (10_state.md R31). -/
def wrMaxlen (b : Byte) (s : State) : State := { s with maxlen := b }

/-- `MINLEN <- b` (10_state.md R31). -/
def wrMinlen (b : Byte) (s : State) : State := { s with minlen := b }

/-- `TIMEOUT <- h` (10_state.md R32). -/
def wrTimeout (h : Half) (s : State) : State := { s with timeout := h }

/-- `REG(num) <- v` for every writable register but CMD, whose write starts a command and stores nothing
(43_host_access.md R182, R186). -/
def writeReg (s : State) (num : Byte) (v : Word) : Except Refusal State :=
  match num.toNat with
  | 0x00 => write8 num v (fun b => setCtrl b s)
  | 0x01 => .error (.writeOfReadOnly num)
  | 0x02 => write8 num v (fun _ => s)
  | 0x03 => .ok (wrValue v s)
  | 0x04 => write8 num v (fun b => wrBcd 0 b s)
  | 0x05 => write8 num v (fun b => wrBcd 1 b s)
  | 0x06 => write8 num v (fun b => wrBcd 2 b s)
  | 0x07 => write8 num v (fun b => wrBcd 3 b s)
  | 0x08 => write8 num v (fun b => wrP 0 b s)
  | 0x09 => write8 num v (fun b => wrP 1 b s)
  | 0x0A => write8 num v (fun b => wrP 2 b s)
  | 0x0B => write8 num v (fun b => wrP 3 b s)
  | 0x0C => write8 num v (fun b => wrOp b s)
  | 0x0D => write8 num v (fun b => wrMaxlen b s)
  | 0x0E => write8 num v (fun b => wrMinlen b s)
  | 0x0F => write16 num v (fun h => wrTimeout h s)
  | 0x10 => .error (.writeOfReadOnly num)
  | 0x11 => .error (.writeOfReadOnly num)
  | 0x12 => .error (.writeOfReadOnly num)
  | 0x13 => .error (.writeOfReadOnly num)
  | 0x14 => .error (.writeOfReadOnly num)
  | 0x15 => .error (.writeOfReadOnly num)
  | _ => .error (.reservedRegister num)

/-! ### The host's side of an access -/

/-- A read hands its value to the host; no register changes (43_host_access.md R181, R183). -/
def giveResult (v : Word) (s : State) : State :=
  { s with host := { s.host with results := s.host.results ++ [v] } }

/-- A byte handed to the host. -/
def giveByte (b : Byte) (s : State) : State := giveResult (b.setWidth 32) s

/-- `RDBUF i` for an index of the buffer (43_host_access.md R183). -/
def rdbufOp (i : Nat) (s : State) : State := giveByte (readBuf s i) s

/-- The host records what its policy found (44_cat_commands.md R194; log 16). -/
def noteReport (r : Report) (h : HostAgent) : HostAgent := { h with reports := h.reports ++ [r] }

/-- The host records what its policy found, in the machine. -/
def report (r : Report) (s : State) : State := { s with host := noteReport r s.host }

/-- The host notes the sequence that goes on when its ACC has ended (44_cat_commands.md R193; log 8). -/
def awaiting (k : Task) (s : State) : State := { s with host := { s.host with task := some k } }

/-- The host takes up the sequence that awaited the ACC (43_host_access.md R184; log 8). -/
def clearTask (s : State) : State := { s with host := { s.host with task := none } }

/-! ### The transport (00_scope.md R10 to R12) -/

/-- The number of the next free answer, once an answer was taken from a list or, where it is empty, drawn. -/
def drawsAfter {α : Type} (e : Transport) : List α → Nat
  | _ :: _ => e.draws
  | [] => e.draws + 1

/-- The answer to the next `tx_write_all`. -/
def txAnswer (e : Transport) : TxAnswer :=
  match e.tx with
  | a :: _ => a
  | [] => Config.txDraw e.draws

/-- The transport after that answer. -/
def afterTx (e : Transport) : Transport :=
  { e with tx := e.tx.tail, draws := drawsAfter e e.tx }

/-- What the environment does during the next wait. -/
def waitAnswer (e : Transport) : WaitAnswer :=
  match e.waits with
  | a :: _ => a
  | [] => Config.waitDraw e.draws

/-- The transport after that wait. -/
def afterWait (e : Transport) : Transport :=
  { e with waits := e.waits.tail, draws := drawsAfter e e.waits }

/-- The delivery at the head of the transport. -/
def nextDelivery (e : Transport) : ReadAnswer :=
  match e.reads with
  | a :: _ => a
  | [] => Config.readDraw e.draws

/-- At most `cap` bytes of a delivery (00_scope.md R12). -/
def clip (cap : Nat) : ReadAnswer → ReadAnswer
  | .error => .error
  | .bytes bs => .bytes (bs.take cap)

/-- The bytes of a delivery beyond `cap` stay waiting and come first at the next read (20_memory.md R66,
42_response_accumulator.md R163; log 2). -/
def leftover (cap : Nat) : ReadAnswer → List ReadAnswer
  | .error => []
  | .bytes bs => if cap < bs.length then [.bytes (bs.drop cap)] else []

/-- The answer to `rx_read(cap)`. -/
def readAnswer (cap : Nat) (e : Transport) : ReadAnswer := clip cap (nextDelivery e)

/-- The transport after `rx_read(cap)`: the bytes returned are consumed (20_memory.md R66). -/
def afterRead (cap : Nat) (e : Transport) : Transport :=
  { e with reads := leftover cap (nextDelivery e) ++ e.reads.tail, draws := drawsAfter e e.reads }

/-- Note a request and its fate (41_frame_codec.md R139; log 13). -/
def recordTx (f : Frame) (fate : TxFate) (e : Transport) : Transport :=
  { e with wire := e.wire ++ [{ frame := f, fate := fate }] }

/-- The bytes of a request that reached the wire: all five, or a prefix of any length up to five
(41_frame_codec.md R139). -/
def recordBytes (r : TxRecord) : List Byte :=
  match r.fate with
  | .whole => frameBytes r.frame
  | .failed n => (frameBytes r.frame).take n
  | .cutByReset n => (frameBytes r.frame).take n

/-- The bytes on the wire, in order (20_memory.md R69). -/
def wireBytes (e : Transport) : List Byte := e.wire.flatMap recordBytes

/-- The bytes handed to the transport are copied to the trace output while TRACE = 1 (10_state.md R24). -/
def traceSent (bs : List Byte) (s : State) : List TraceItem :=
  if traceOn s then s.trace ++ bs.map .sent else s.trace

/-- The bytes taken from the transport are copied to the trace output while TRACE = 1 (10_state.md R24). -/
def traceReceived (bs : List Byte) (s : State) : List TraceItem :=
  if traceOn s then s.trace ++ bs.map .received else s.trace

/-! ### Reset (70_reset_and_hazards.md R250, R251) -/

/-- Reset of the block: every register and hidden register at its reset value, `BUF` a new set of unknown cells. The
transport, the host and what was traced are not the block's (R251; log 4, 14). -/
def resetBlock (s : State) : State :=
  { State.reset with
    trace := s.trace, resetIn := s.resetIn, resets := s.resets + 1, env := s.env, host := s.host }

end Sys2Proof.Machine
end

