-- ==== Sys2Proof/Machine/Bcdu.lean ====
section
/-! DEFINITION. The BCD codec unit: PACK and UNPACK (40_bcd_codec.md). -/

namespace Sys2Proof.Machine

/-- The work of PACK with a legal digit count: all four bytes of `BCD` are written (40_bcd_codec.md R112, R125). -/
def packOp (d : Nibble) (s : State) : State :=
  setErr .none { s with bcd := packField (fieldBytes d) s.value.toNat }

/-- The work of UNPACK with a legal digit count. The sum is below 2^32, so nothing is lost
(40_bcd_codec.md R116, R118). -/
def unpackOp (d : Nibble) (s : State) : State :=
  setErr .none { s with value := BitVec.ofNat 32 (unpackField s.bcd (fieldBytes d)) }

/-- `PACK d` (40_bcd_codec.md R112). -/
def execPack (d : Nibble) (s : State) : Host.Outcome State Fault Refusal :=
  .next (if digitsLegal d then packOp d s else raise .illegalOperand s)

/-- `UNPACK d` (40_bcd_codec.md R116). -/
def execUnpack (d : Nibble) (s : State) : Host.Outcome State Fault Refusal :=
  .next (if digitsLegal d then unpackOp d s else raise .illegalOperand s)

end Sys2Proof.Machine
end

