-- ==== Sys2Proof/Machine/Frmu.lean ====
section
/-! DEFINITION. The frame builder/validator unit: BUILD, CHECK and SEND (41_frame_codec.md). -/

namespace Sys2Proof.Machine

/-- The work of BUILD: latch the frame (41_frame_codec.md R131). -/
def buildOp (s : State) : State :=
  setErr .none
    { s with
      frame := ⟨s.p.b0, s.p.b1, s.p.b2, s.p.b3, s.op⟩
      status := { s.status with fvalid := true } }

/-- The work of CHECK: a failed check is a flag, never an error (41_frame_codec.md R134). -/
def checkOp (s : State) : State :=
  setErr .none { s with status := { s.status with fok := frameMatches s } }

/-- The fate of a request by the transport's answer (00_scope.md R10). -/
def fateOf : TxAnswer → TxFate
  | .ok => .whole
  | .error n => .failed n

/-- `ERR` by the transport's answer (41_frame_codec.md R137). -/
def errOf : TxAnswer → ErrCode
  | .ok => .none
  | .error _ => .txError

/-- The latched frame is handed to the transport, which does with it what `fate` says. -/
def handOver (fate : TxFate) (env : Transport) (s : State) : State :=
  { s with env := recordTx s.frame fate env, trace := traceSent (frameBytes s.frame) s }

/-- The work of SEND: one request of exactly five bytes, one answer (41_frame_codec.md R137). -/
def sendOp (s : State) : State :=
  if s.status.fvalid then
    setErr (errOf (txAnswer s.env)) (handOver (fateOf (txAnswer s.env)) (afterTx s.env) s)
  else raise .frameNotBuilt s

/-- A SEND during which the block is reset after `n` bytes (70_reset_and_hazards.md R250; log 14). -/
def sendCutByReset (n : Nat) (s : State) : State :=
  if s.status.fvalid then resetBlock (handOver (.cutByReset n) s.env s) else resetBlock s

/-- A command that needs the transport: refused where it was never opened (70_reset_and_hazards.md R252; log 10). -/
def withTransport (s : State) (work : State → State) : Host.Outcome State Fault Refusal :=
  if s.env.opened then .next (work s) else .refused .transportNotOpen

/-- `BUILD` (41_frame_codec.md R131). -/
def execBuild (s : State) : Host.Outcome State Fault Refusal := .next (buildOp s)

/-- `CHECK` (41_frame_codec.md R134). -/
def execCheck (s : State) : Host.Outcome State Fault Refusal := .next (checkOp s)

/-- `SEND` (41_frame_codec.md R137). -/
def execSend (s : State) : Host.Outcome State Fault Refusal := withTransport s sendOp

end Sys2Proof.Machine
end

