-- ==== Sys2Proof/Machine/Racc.lean ====
section
/-! DEFINITION. The response accumulator unit: the start of ACC, one wait outcome, one read
(42_response_accumulator.md R146 to R158), and its deadline timer (R160). -/

namespace Sys2Proof.Machine

/-- One tick of the timer: it counts down, stops at 0 and never wraps (42_response_accumulator.md R160). -/
def timerTick (t : Half) : Half := if t = 0 then 0 else t - 1

/-- The timer after `n` ticks (log 3). -/
def timerElapse (n : Nat) (t : Half) : Half := BitVec.ofNat 16 (t.toNat - n)

/-- Some condition is present while the timer has not passed 0. -/
def eventInTime (a : WaitAnswer) (timer : Half) : Bool :=
  (a.hardError || a.ready || a.transient) && decide (a.elapsed ≤ timer.toNat)

/-- The outcome of one wait: of the conditions present at the same moment the highest in the order hard_error, ready,
transient, timeout (42_response_accumulator.md R160, R162). -/
def waitOutcome (a : WaitAnswer) (timer : Half) : WaitOutcome :=
  if eventInTime a timer then
    if a.hardError then .hardError else if a.ready then .ready else .transient
  else .timeout

/-- The timer when the wait ends: the ticks up to the event, or all of them (42_response_accumulator.md R160). -/
def timerAtEnd (a : WaitAnswer) (timer : Half) : Half :=
  if eventInTime a timer then timerElapse a.elapsed timer else timerElapse timer.toNat timer

/-- `finish(c)` (42_response_accumulator.md R158). -/
def finish (c : Cause) (s : State) : State :=
  { s with
    count := if c = .hardError then 0 else s.offset
    status := { s.status with cause := c, err := if c = .hardError then .rxError else .none }
    rstate := .idle }

/-- Entry to WAIT: the timer is loaded (42_response_accumulator.md R160). -/
def enterWait (s : State) : State := { s with timer := s.timeout, rstate := .wait }

/-- The loop test (42_response_accumulator.md R149). -/
def loopTest (s : State) : State :=
  if s.offset < s.minlen then enterWait s else finish .minReached s

/-- The operand check of ACC (42_response_accumulator.md R147). -/
def accOperandsLegal (s : State) : Bool :=
  decide (s.maxlen.toNat ≤ Config.bufCap) && decide (s.minlen ≤ s.maxlen)

/-- The start of ACC (42_response_accumulator.md R146, R148). -/
def accStart (s : State) : State :=
  if accOperandsLegal s then loopTest { s with offset := 0 } else raise .illegalOperand s

/-- `ACC` (42_response_accumulator.md R146): its start. The wait and read steps follow as steps of the machine while
the host is blocked (R148, 43_host_access.md R184). -/
def execAcc (s : State) : Host.Outcome State Fault Refusal := withTransport s accStart

/-- The state in which the outcome of a wait is taken: the environment has answered and the timer has run. -/
def afterWaiting (s : State) : State :=
  { s with env := afterWait s.env, timer := timerAtEnd (waitAnswer s.env) s.timer }

/-- What the accumulator does with a wait outcome (42_response_accumulator.md R150, R151, R152, R157). -/
def onWaitOutcome (o : WaitOutcome) (s : State) : State :=
  match o with
  | .ready => { s with rstate := .read }
  | .timeout => finish .timeout s
  | .transient => enterWait s
  | .hardError => finish .hardError s

/-- One step from WAIT (42_response_accumulator.md R148). -/
def waitStep (s : State) : State :=
  onWaitOutcome (waitOutcome (waitAnswer s.env) s.timer) (afterWaiting s)

/-- The capacity of a read request (42_response_accumulator.md R153). -/
def readCap (s : State) : Nat := s.maxlen.toNat - s.offset.toNat

/-- The stores of a read of one byte or more, and the advance of `OFFSET` (42_response_accumulator.md R156). -/
def storeRead (bs : List Byte) (s : State) : State :=
  { s with
    buf := s.buf.store s.offset.toNat bs
    offset := s.offset + BitVec.ofNat 8 bs.length
    trace := traceReceived bs s }

/-- What the accumulator does with a read answer (42_response_accumulator.md R154, R155, R156). -/
def onReadAnswer (a : ReadAnswer) (s : State) : State :=
  match a with
  | .error => finish .hardError s
  | .bytes [] => finish .closed s
  | .bytes (b :: bs) => loopTest (storeRead (b :: bs) s)

/-- One step from READ (42_response_accumulator.md R148, R153). The fault is for states no run reaches (log 12). -/
def readStep (s : State) : Host.Outcome State Fault Refusal :=
  if s.offset < s.maxlen ∧ s.maxlen.toNat ≤ Config.bufCap then
    .next (onReadAnswer (readAnswer (readCap s) s.env) { s with env := afterRead (readCap s) s.env })
  else .fault .accumulatorOutOfRange

end Sys2Proof.Machine
end

