-- ==== Sys2Proof/Machine/Script.lean ====
section
/-! DEFINITION. A host sequence as the list of its accesses (43_host_access.md R180, 44_cat_commands.md R190), and how it
runs with the reset input sampled at every access (70_reset_and_hazards.md R250; log 8, 14). -/

namespace Sys2Proof.Machine

/-- The accesses of a host sequence, in order. What a read returns is the host's, and a reset of the block leaves it. -/
inductive Script where
  /-- The sequence is over; the host draws its conclusion, which touches no register. -/
  | done (closing : HostAgent → HostAgent)
  /-- `ACC`: the sequence is over up to the end of the ACC that starts here. -/
  | acc (task : Task)
  /-- A write, or a command that ends in its own step. -/
  | access (work : State → State) (next : Script)
  /-- `SEND`, during which a reset can fall. -/
  | send (next : Script)
  /-- A read of one byte. -/
  | rdByte (get : State → Byte) (next : Byte → Script)
  /-- `RD VALUE`. -/
  | rdValue (next : Word → Script)

/-- Reset is asserted at the coming access. -/
def asserted : List Level → Bool
  | [] => false
  | .low :: _ => false
  | .high :: _ => true
  | .duringSend _ :: _ => true

/-- The state in which the coming access is made. -/
def sampled (ls : List Level) (s : State) : State := if asserted ls then resetBlock s else s

/-- SEND with the reset input as given: cut short where it is asserted meanwhile (70_reset_and_hazards.md R250). -/
def sendSampled (ls : List Level) (s : State) : State :=
  match ls with
  | .duringSend n :: _ => sendCutByReset n s
  | _ => sendOp (sampled ls s)

/-- A host sequence with the reset input as given at each of its accesses. -/
def runScriptWith (ls : List Level) (sc : Script) (s : State) : State :=
  match sc with
  | .done closing => { s with host := closing s.host }
  | .acc k => accStart (awaiting k (sampled ls s))
  | .access work next => runScriptWith ls.tail next (work (sampled ls s))
  | .send next => runScriptWith ls.tail next (sendSampled ls s)
  | .rdByte get next =>
    runScriptWith ls.tail (next (get (sampled ls s))) (giveByte (get (sampled ls s)) (sampled ls s))
  | .rdValue next =>
    runScriptWith ls.tail (next (sampled ls s).value) (giveResult (sampled ls s).value (sampled ls s))

/-- A host sequence with the reset input low throughout. -/
def runScript (sc : Script) (s : State) : State := runScriptWith [] sc s

end Sys2Proof.Machine
end

