-- ==== Sys2Proof/Machine/Cat.lean ====
section
/-! DEFINITION. The nine CAT frames as instructions: the sequences SENDFRAME and RECV (44_cat_commands.md R192, R193)
with the frame's own bytes, and what the host does when the ACC has ended (R194 to R212). -/

namespace Sys2Proof.Machine

/-- The operands of RECV and the sequence that goes on when its ACC has ended (44_cat_commands.md R193). -/
structure Response where
  maxLen : Byte
  minLen : Byte
  timeoutMs : Half
  task : Task
deriving DecidableEq, Repr

/-- `RECV(128, 9, 100)` (44_cat_commands.md R196). -/
def responseProbe : Response := ⟨128, 9, 100, .probe⟩

/-- `RECV(5, 5, 1000)` (44_cat_commands.md R200). -/
def responseReadFreq : Response := ⟨5, 5, 1000, .readFreq⟩

/-- `RECV(16, 2, 100)` (44_cat_commands.md R208). -/
def responseEeRead (task : Task) : Response := ⟨16, 2, 100, task⟩

/-- `RECV(128, 128, 500)` (44_cat_commands.md R207). -/
def responseFlush : Response := ⟨128, 128, 500, .flush⟩

/-- The response the host accumulates after a frame, by its opcode; none for any other opcode
(30_encoding.md R88, R95). -/
def responseOf (f : Frame) : Option Response :=
  match f.opc.toNat with
  | 0xA7 => some responseProbe
  | 0x03 => some responseReadFreq
  | 0xBB => some (responseEeRead (.eeRead (addressOf f.b0 f.b1)))
  | _ => none

/-- `SENDFRAME`: the frame into P0..P3 and OP, BUILD, SEND, RD STATUS, and what follows on the byte read
(44_cat_commands.md R192). -/
def sendFrame (f : Frame) (next : Byte → Script) : Script :=
  .access (wrP 0 f.b0) <| .access (wrP 1 f.b1) <| .access (wrP 2 f.b2) <| .access (wrP 3 f.b3) <|
  .access (wrOp f.opc) <| .access buildOp <| .send <| .rdByte (fun s => statusByte s.status) next

/-- `RECV` up to its ACC, which starts (44_cat_commands.md R193). -/
def recv (r : Response) : Script :=
  .access (wrMaxlen r.maxLen) <| .access (wrMinlen r.minLen) <| .access (wrTimeout r.timeoutMs) <| .acc r.task

/-- What follows SENDFRAME on the STATUS byte it read: after TX_ERROR the operation ends, a write failure; else the host
accumulates the response if the operation has one (44_cat_commands.md R190, R192, R194). -/
def afterStatus (f : Frame) (resp : Option Response) (status : Byte) : Script :=
  if errField status = errBits .txError then .done (noteReport (.writeFailed f.opc))
  else
    match resp with
    | none => .done (noteReport (.frameSent f.opc))
    | some r => recv r

/-- An operation up to the start of its ACC: SENDFRAME, then RECV (44_cat_commands.md R190, R192). -/
def catScript (f : Frame) (resp : Option Response) : Script := sendFrame f (afterStatus f resp)

/-- An operation of the host on an open transport (44_cat_commands.md R190; log 8, 10). -/
def catCommand (f : Frame) (resp : Option Response) (s : State) : Host.Outcome State Fault Refusal :=
  withTransport s (runScript (catScript f resp))

/-- `PROBE` (44_cat_commands.md R196). -/
def execProbe (p0 p1 p2 p3 : Byte) (s : State) : Host.Outcome State Fault Refusal :=
  catCommand ⟨p0, p1, p2, p3, 0xA7⟩ (some responseProbe) s

/-- `TUNE` (44_cat_commands.md R197). -/
def execTune (p0 p1 p2 p3 : Byte) (s : State) : Host.Outcome State Fault Refusal :=
  catCommand ⟨p0, p1, p2, p3, 0x01⟩ none s

/-- `SETMODE` (44_cat_commands.md R199). -/
def execSetmode (p0 p1 p2 p3 : Byte) (s : State) : Host.Outcome State Fault Refusal :=
  catCommand ⟨p0, p1, p2, p3, 0x07⟩ none s

/-- `READFREQ` (44_cat_commands.md R200). -/
def execReadfreq (p0 p1 p2 p3 : Byte) (s : State) : Host.Outcome State Fault Refusal :=
  catCommand ⟨p0, p1, p2, p3, 0x03⟩ (some responseReadFreq) s

/-- `CTCSSDCS` (44_cat_commands.md R202). -/
def execCtcssdcs (p0 p1 p2 p3 : Byte) (s : State) : Host.Outcome State Fault Refusal :=
  catCommand ⟨p0, p1, p2, p3, 0x0A⟩ none s

/-- `CTCSSTONE` (44_cat_commands.md R203). -/
def execCtcsstone (p0 p1 p2 p3 : Byte) (s : State) : Host.Outcome State Fault Refusal :=
  catCommand ⟨p0, p1, p2, p3, 0x0B⟩ none s

/-- `RPTDIR` (44_cat_commands.md R204). -/
def execRptdir (p0 p1 p2 p3 : Byte) (s : State) : Host.Outcome State Fault Refusal :=
  catCommand ⟨p0, p1, p2, p3, 0x09⟩ none s

/-- `RPTOFS` (44_cat_commands.md R205). -/
def execRptofs (p0 p1 p2 p3 : Byte) (s : State) : Host.Outcome State Fault Refusal :=
  catCommand ⟨p0, p1, p2, p3, 0xF9⟩ none s

/-- `EEREAD` (44_cat_commands.md R208). -/
def execEeread (p0 p1 p2 p3 : Byte) (s : State) : Host.Outcome State Fault Refusal :=
  catCommand ⟨p0, p1, p2, p3, 0xBB⟩ (some (responseEeRead (.eeRead (addressOf p0 p1)))) s

/-! ### With a number for operand -/

/-- `WR VALUE, v`; `PACK d`; `RD BCD0` to `RD BCD3`; `SENDFRAME` of these bytes (44_cat_commands.md R197, R203, R205;
log 17). -/
def numberScript (d : Nibble) (v : Nat) (opc : Byte) : Script :=
  .access (wrValue (BitVec.ofNat 32 v)) <| .access (packOp d) <|
  .rdByte (fun s => s.bcd.b0) fun b0 => .rdByte (fun s => s.bcd.b1) fun b1 =>
  .rdByte (fun s => s.bcd.b2) fun b2 => .rdByte (fun s => s.bcd.b3) fun b3 =>
  catScript (layoutB ⟨b0, b1, b2, b3⟩ opc) none

/-! ### After the ACC -/

/-- `RD COUNT`, `RD STATUS`, and what follows on the count (44_cat_commands.md R193). -/
def recvEnd (next : Byte → Script) : Script :=
  .rdByte (fun s => s.count) fun c => .rdByte (fun s => statusByte s.status) fun _ => next c

/-- `RDBUF i` for each index, in order, and what follows on the bytes (44_cat_commands.md R193). -/
def rdbufs (indices : List Nat) (next : List Byte → Script) : Script :=
  match indices with
  | [] => next []
  | i :: rest => .rdByte (fun s => readBuf s i) fun b => rdbufs rest fun bs => next (b :: bs)

/-- The handshake's policy: fewer than 9 bytes is fatal, more is a warning (44_cat_commands.md R196; log 9). -/
def probeScript : Script :=
  recvEnd fun c =>
  if c.toNat < 9 then .done (noteReport (.probeFatal c))
  else rdbufs (List.range 9) fun bs => .done (noteReport (.identity bs (decide (9 < c.toNat))))

/-- `RDBUF 0` to `RDBUF 4`, the field into BCD, `UNPACK 8`, `RD VALUE`, times 10; best-effort whatever the length
(44_cat_commands.md R200). -/
def readFreqScript : Script :=
  recvEnd fun c =>
  .rdByte (fun s => readBuf s 0) fun b0 => .rdByte (fun s => readBuf s 1) fun b1 =>
  .rdByte (fun s => readBuf s 2) fun b2 => .rdByte (fun s => readBuf s 3) fun b3 =>
  .rdByte (fun s => readBuf s 4) fun mode =>
  .access (wrBcd 0 b0) <| .access (wrBcd 1 b1) <| .access (wrBcd 2 b2) <| .access (wrBcd 3 b3) <|
  .access (unpackOp 8) <| .rdValue fun v =>
  .done (noteReport (.frequency (v.toNat * 10) mode (decide (c = 5))))

/-- The two bytes of an EEPROM read (44_cat_commands.md R208; log 9). -/
def eeReadScript (addr : Half) : Script :=
  recvEnd fun c =>
  .rdByte (fun s => readBuf s 0) fun b0 => .rdByte (fun s => readBuf s 1) fun b1 =>
  .done (noteReport (.cell addr c b0 b1))

/-- FLUSH ignores every result (44_cat_commands.md R207). -/
def flushScript : Script := recvEnd fun _ => .done (noteReport .flushed)

/-- Two more bytes of the image, and the dump goes on with the next address (44_cat_commands.md R212). -/
def extendImage (b0 b1 : Byte) (h : HostAgent) : HostAgent :=
  { h with image := h.image ++ [b0, b1], queue := .dumpNext :: h.queue }

/-- One address of DUMP: stop at no byte, store one byte and a zero at one, else both
(44_cat_commands.md R212, R213). -/
def dumpClosing (c b0 b1 : Byte) (h : HostAgent) : HostAgent :=
  if c = 0 then noteReport (.dumpStopped h.image.length) h
  else if c = 1 then noteReport (.dumpShort h.image.length) (extendImage b0 0 h)
  else extendImage b0 b1 h

/-- The two bytes of one address of DUMP (44_cat_commands.md R212). -/
def dumpScript : Script :=
  recvEnd fun c =>
  .rdByte (fun s => readBuf s 0) fun b0 => .rdByte (fun s => readBuf s 1) fun b1 => .done (dumpClosing c b0 b1)

/-- The rest of the sequence that awaited an ACC (44_cat_commands.md R196, R200, R207, R208, R212). -/
def taskScript : Task → Script
  | .probe => probeScript
  | .readFreq => readFreqScript
  | .eeRead addr => eeReadScript addr
  | .flush => flushScript
  | .dump => dumpScript

/-- The host is released and its sequence goes on (43_host_access.md R184; log 8). -/
def finishTask (k : Task) (s : State) : State := runScript (taskScript k) (clearTask s)

end Sys2Proof.Machine
end

