-- ==== Sys2Proof/Machine/Dispatch.lean ====
section
/-! DEFINITION. One arm per instruction. -/

namespace Sys2Proof.Machine

def exec (i : Instr) (s : State) : Host.Outcome State Fault Refusal :=
  match i with
  | .pack d => Sys2Proof.Machine.execPack d s
  | .unpack d => Sys2Proof.Machine.execUnpack d s
  | .build => Sys2Proof.Machine.execBuild s
  | .check => Sys2Proof.Machine.execCheck s
  | .send => Sys2Proof.Machine.execSend s
  | .acc => Sys2Proof.Machine.execAcc s
  | .probe p0 p1 p2 p3 => Sys2Proof.Machine.execProbe p0 p1 p2 p3 s
  | .tune p0 p1 p2 p3 => Sys2Proof.Machine.execTune p0 p1 p2 p3 s
  | .setmode p0 p1 p2 p3 => Sys2Proof.Machine.execSetmode p0 p1 p2 p3 s
  | .readfreq p0 p1 p2 p3 => Sys2Proof.Machine.execReadfreq p0 p1 p2 p3 s
  | .ctcssdcs p0 p1 p2 p3 => Sys2Proof.Machine.execCtcssdcs p0 p1 p2 p3 s
  | .ctcsstone p0 p1 p2 p3 => Sys2Proof.Machine.execCtcsstone p0 p1 p2 p3 s
  | .rptdir p0 p1 p2 p3 => Sys2Proof.Machine.execRptdir p0 p1 p2 p3 s
  | .rptofs p0 p1 p2 p3 => Sys2Proof.Machine.execRptofs p0 p1 p2 p3 s
  | .eeread p0 p1 p2 p3 => Sys2Proof.Machine.execEeread p0 p1 p2 p3 s

end Sys2Proof.Machine
end

