-- ==== Sys2Proof/Machine/Sequencer.lean ====
section
/-! DEFINITION. What one step of the machine does: the reset input, a step of a running ACC, the rest of a host
sequence, or the host's next request (00_scope.md R15; 43_host_access.md R180, R184, R186; log 6, 8, 14). -/

namespace Sys2Proof.Machine

/-- The command a byte written to CMD starts; a byte that encodes none raises ILLEGAL_COMMAND
(43_host_access.md R186, 30_encoding.md R83). -/
def runCommand (c : Byte) (s : State) : Host.Outcome State Fault Refusal :=
  match decode [c] with
  | .ok i => exec i s
  | .error _ => .next (raise .illegalCommand s)

/-- A CAT frame; one whose opcode is none of the nine is built and sent like any other (30_encoding.md R93). -/
def runFrame (f : Frame) (s : State) : Host.Outcome State Fault Refusal :=
  match decode (frameBytes f) with
  | .ok i => exec i s
  | .error _ => catCommand f none s

/-- The next address of a DUMP, with its progress marker (44_cat_commands.md R212). -/
def dumpMark (s : State) : State :=
  if s.host.image.length % 256 = 0 then report (.progress s.host.image.length) s else s

/-- The image of a new DUMP is all zero (44_cat_commands.md R212). -/
def dumpClear (s : State) : State := { s with host := { s.host with image := [] } }

/-- The first address DUMP does not visit (44_cat_commands.md R212). -/
def dumpEnd : Nat := 0x1926

/-- An operation with a number for operand; none for a number that does not fit VALUE and cannot be written
(44_cat_commands.md R197; log 11, 17). -/
def numberSequence (d : Nibble) (v : Nat) (opc : Byte) (s : State) : Option (Script × State) :=
  if v < 2 ^ 32 then some (numberScript d v opc, s) else none

/-- One address of DUMP; none when the dump is done (44_cat_commands.md R212; log 18). -/
def dumpSequence (s : State) : Option (Script × State) :=
  if s.host.image.length < dumpEnd then
    some (catScript (frameEeRead (BitVec.ofNat 16 s.host.image.length)) (some (responseEeRead .dump)), dumpMark s)
  else none

/-- An operation with a number for operand (44_cat_commands.md R197, R203, R205; log 17). -/
def runNumber (d : Nibble) (v : Nat) (opc : Byte) (s : State) : Host.Outcome State Fault Refusal :=
  match numberSequence d v opc s with
  | some (sc, t) => withTransport t (runScript sc)
  | none => .refused (.valueTooWide 0x03)

/-- One address of DUMP, or its end (44_cat_commands.md R212; log 18). -/
def runDump (s : State) : Host.Outcome State Fault Refusal :=
  match dumpSequence s with
  | some (sc, t) => withTransport t (runScript sc)
  | none => .next (report .dumpDone s)

/-- One request of the host, already taken off its queue (43_host_access.md R181 to R183, R186). -/
def runRequest (r : Request) (s : State) : Host.Outcome State Fault Refusal :=
  match r with
  | .rd num =>
    match readReg s num with
    | .ok v => .next (giveResult v s)
    | .error e => .refused e
  | .wr num v =>
    match writeReg s num v with
    | .ok t => if num = 0x02 then runCommand (v.setWidth 8) t else .next t
    | .error e => .refused e
  | .rdbuf i => if i < Config.bufCap then .next (rdbufOp i s) else .refused (.reservedBufferIndex i)
  | .frame f => runFrame f s
  | .tune fHz => runNumber 8 (fHz / 10) 0x01 s
  | .ctcssTone t => runNumber 4 t 0x0B s
  | .rptOfs oHz => runNumber 4 (oHz / 10000) 0xF9 s
  | .flush => withTransport s (runScript (recv responseFlush))
  | .dump => runDump (dumpClear s)
  | .dumpNext => runDump s

/-- The state after the host's next request is taken off its queue. -/
def popRequest (s : State) : State := { s with host := { s.host with queue := s.host.queue.tail } }

/-- A step while reset is not asserted. A host with no request asks for nothing and nothing happens (log 6). -/
def advanceLive (s : State) : Host.Outcome State Fault Refusal :=
  match s.rstate with
  | .wait => .next (waitStep s)
  | .read => readStep s
  | .idle =>
    match s.host.task with
    | some t => .next (finishTask t s)
    | none =>
      match s.host.queue with
      | [] => .next s
      | r :: _ => runRequest r (popRequest s)

/-- The host sequence a request stands for and the state it starts in; none for a request that is a single access
other than SEND, or none at all (44_cat_commands.md R190; 30_encoding.md R97). -/
def sequenceOf (r : Request) (s : State) : Option (Script × State) :=
  match r with
  | .frame f => some (catScript f (responseOf f), s)
  | .tune fHz => numberSequence 8 (fHz / 10) 0x01 s
  | .ctcssTone t => numberSequence 4 t 0x0B s
  | .rptOfs oHz => numberSequence 4 (oHz / 10000) 0xF9 s
  | .flush => some (recv responseFlush, s)
  | .dump => dumpSequence (dumpClear s)
  | .dumpNext => dumpSequence s
  | .wr num v => if num = 0x02 ∧ v = 0x50 then some (.send (.done id), s) else none
  | .rd _ => none
  | .rdbuf _ => none

/-- The host sequence of the coming step, if it holds one. -/
def stepSequence (s : State) : Option (Script × State) :=
  match s.rstate with
  | .wait => none
  | .read => none
  | .idle =>
    match s.host.task with
    | some k => some (taskScript k, clearTask s)
    | none =>
      match s.host.queue with
      | [] => none
      | r :: _ => if s.env.opened then sequenceOf r (popRequest s) else none

/-- A step with the reset input as given at each of its accesses: a host sequence goes on from the reset block; any
other step is one access or one step of an ACC, before which a reset falls (70_reset_and_hazards.md R250; log 14). -/
def advanceWithin (ls : List Level) (s : State) : Host.Outcome State Fault Refusal :=
  match stepSequence s with
  | some (sc, t) => .next (runScriptWith ls sc t)
  | none => if asserted ls then .next (resetBlock s) else advanceLive s

/-- The reset input has been sampled. -/
def popReset (s : State) : State := { s with resetIn := s.resetIn.tail }

/-- One step of the machine: the reset input first (70_reset_and_hazards.md R250). -/
def advance (s : State) : Host.Outcome State Fault Refusal :=
  match s.resetIn with
  | [] => advanceLive s
  | .off :: _ => advanceLive (popReset s)
  | .on :: _ => .next (resetBlock (popReset s))
  | .within ls :: _ => advanceWithin ls (popReset s)

/-- The request that presents an instruction's bits: a write of the command byte, or a frame (log 6, 7). -/
def requestOfWord (nbits w : Nat) : Request :=
  if nbits ≤ 8 then .wr 0x02 (BitVec.ofNat 32 (w % 2 ^ 8)) else .frame (frameOfWord w)

/-- The host's next request is the given one and nothing keeps the next step from running it (log 6). -/
def placeRequest (r : Request) (s : State) : State :=
  { s with
    rstate := .idle, resetIn := []
    host := { s.host with task := none, queue := r :: s.host.queue } }

end Sys2Proof.Machine
end

