-- ==== Sys2Proof/Machine/Step.lean ====
section
/-! DEFINITION. The step, and where an instruction is placed for it. -/

namespace Sys2Proof.Machine

/-- One step of the machine: a reset, one step of a running ACC, the rest of a host sequence or one host request. -/
def step (s : State) : Host.Outcome State Fault Refusal := advance s

/-- The instruction with the given bits as the host's next request (log 6, 7). -/
def State.withFetchWord (s : State) (nbits w : Nat) : State := placeRequest (requestOfWord nbits w) s

end Sys2Proof.Machine
end

