-- ==== Sys2Proof/Safety.lean ====
section
/-! DEFINITION. What a sound state is: the relations between the fields of State that the spec states of every state a
run reaches. Each is decidable, and a step keeps them (stated in the certificates). -/

namespace Sys2Proof.Safety

open Sys2Proof.Machine

/-- `CTRL` bits 7:1 read as 0 (10_state.md R24). -/
abbrev ctrlClean (s : State) : Prop := s.ctrl &&& 0xFE = 0

/-- The buffer is in canonical form and within `BUF` (20_memory.md R60; log 4). -/
abbrev bufSound (s : State) : Prop := s.buf.wf = true ∧ s.buf.inRange = true

/-- While an ACC runs, `OFFSET < MINLEN <= MAXLEN <= BUFCAP` (42_response_accumulator.md R147, R149, R153). -/
abbrev accSound (s : State) : Prop :=
  s.rstate ≠ .idle → s.offset < s.minlen ∧ s.minlen ≤ s.maxlen ∧ s.maxlen.toNat ≤ 128

/-- A wait begins with the full deadline (42_response_accumulator.md R160, R161). -/
abbrev timerSound (s : State) : Prop := s.rstate = .wait → s.timer = s.timeout

/-- `COUNT` is a length within `BUF`, and 0 before any ACC and after a hard error (10_state.md R33, R34). -/
abbrev countSound (s : State) : Prop :=
  s.count.toNat ≤ 128 ∧ (s.status.cause = .none → s.count = 0) ∧ (s.status.cause = .hardError → s.count = 0)

/-- `FOK` is set only by a CHECK that found `FVALID` set, and `FVALID` is cleared only by reset (10_state.md R35). -/
abbrev fokSound (s : State) : Prop := s.status.fok = true → s.status.fvalid = true

/-- Before the first BUILD, `FRAME` holds its reset value (10_state.md R25, R46). -/
abbrev frameSound (s : State) : Prop := s.status.fvalid = false → s.frame = ⟨0, 0, 0, 0, 0⟩

/-- The invariant of the machine. -/
abbrev Inv (s : State) : Prop :=
  ctrlClean s ∧ bufSound s ∧ accSound s ∧ timerSound s ∧ countSound s ∧ fokSound s ∧ frameSound s

end Sys2Proof.Safety
end

