-- ==== Sys2Proof/Certificates/Slice0/Obligations.lean ====
section
/-! DEFINITION. The statements for the provers. Namespace Sys2Proof.Claims holds the words they are written in; where a
rule of the spec gives a formula, it is written out here and not borrowed from the machine. -/

namespace Sys2Proof.Claims

open Sys2Proof Sys2Proof.Machine

/-- `digit(v, j) = (v div 10^j) mod 10` (40_bcd_codec.md R111). -/
def digit (v j : Nat) : Nat := v / 10 ^ j % 10

/-- The legal digit counts (30_encoding.md R82). -/
def LegalDigits (d : Nibble) : Prop := d = 2 ∨ d = 4 ∨ d = 6 ∨ d = 8

/-- A decimal pair (40_bcd_codec.md R111). -/
def DecimalPair (b : Byte) : Prop := b.toNat / 16 ≤ 9 ∧ b.toNat % 16 ≤ 9

/-- The byte with decimal digits `hi` and `lo` in its nibbles. -/
def HasDigits (b : Byte) (hi lo : Nat) : Prop := b.toNat / 16 = hi ∧ b.toNat % 16 = lo

/-- The bytes of a Quad, byte 0 first. -/
def quadBytes (q : Quad) : List Byte := [q.b0, q.b1, q.b2, q.b3]

/-- `acc*100 + tens*10 + ones` over a list of bytes, first byte first (40_bcd_codec.md R116). -/
def fieldValue (bs : List Byte) : Nat :=
  bs.foldl (fun acc b => acc * 100 + b.toNat / 16 * 10 + b.toNat % 16) 0

/-- Every byte of the buffer reads as before. -/
def SameBuffer (s t : State) : Prop := ∀ a, readBuf t a = readBuf s a

/-- `STATUS` with another error code. -/
def withErr (s : State) (c : ErrCode) : State := { s with status := { s.status with err := c } }

/-- Apply a function to a next state. -/
def mapNext (f : State → State) : Host.Outcome State Fault Refusal → Host.Outcome State Fault Refusal
  | .next t => .next (f t)
  | .fault r => .fault r
  | .refused r => .refused r

/-- No reset is asserted, no command runs, and the host's next request is `r`. -/
def Asks (s : State) (r : Request) (rest : List Request) : Prop :=
  s.resetIn = [] ∧ s.rstate = .idle ∧ s.host.task = none ∧ s.host.queue = r :: rest

/-- The state after the host has issued the first request of its queue. -/
def issued (s : State) (rest : List Request) : State := { s with host := { s.host with queue := rest } }

/-- The transport is open and will answer `ok` to the next request to write (00_scope.md R10). -/
def WillSend (s : State) : Prop := s.env.opened = true ∧ txAnswer s.env = .ok

/-- The transport after one request for frame `f`: one answer is used up and the request is noted. -/
def envAfterSend (s : State) (f : Frame) (fate : TxFate) : Transport :=
  { afterTx s.env with wire := s.env.wire ++ [{ frame := f, fate := fate }] }

/-- The trace output after bytes were handed to the transport (10_state.md R24). -/
def traceAfterSend (s : State) (bs : List Byte) : List TraceItem :=
  if s.ctrl.getLsbD 0 then s.trace ++ bs.map .sent else s.trace

/-- `STATUS` after a BUILD and a SEND that ended with code `c`. -/
def statusAfterSend (s : State) (c : ErrCode) : Status := { s.status with fvalid := true, err := c }

/-- The host after an operation without a response: `RD STATUS` and a report (44_cat_commands.md R192). -/
def hostAfterSend (s : State) (c : ErrCode) (r : Report) : HostAgent :=
  { s.host with
    results := s.host.results ++ [(statusByte (statusAfterSend s c)).setWidth 32]
    reports := s.host.reports ++ [r] }

/-- `SENDFRAME` of frame `f` and nothing more: the parameter registers, `OP` and `FRAME` hold it, the transport is asked
to write exactly its five bytes, and all else is as before (44_cat_commands.md R192). -/
def sentState (s : State) (f : Frame) (fate : TxFate) (c : ErrCode) (r : Report) : State :=
  { s with
    p := ⟨f.b0, f.b1, f.b2, f.b3⟩, op := f.opc, frame := f
    status := statusAfterSend s c
    trace := traceAfterSend s [f.b0, f.b1, f.b2, f.b3, f.opc]
    env := envAfterSend s f fate
    host := hostAfterSend s c r }

/-- `SENDFRAME` of frame `f`, then `RECV(max, min, ms)` up to the wait its ACC enters (44_cat_commands.md R192, R193). -/
def receivingState (s : State) (f : Frame) (max min : Byte) (ms : Half) (task : Task) : State :=
  { s with
    p := ⟨f.b0, f.b1, f.b2, f.b3⟩, op := f.opc, frame := f
    status := statusAfterSend s .none
    maxlen := max, minlen := min, timeout := ms
    rstate := .wait, offset := 0, timer := ms
    trace := traceAfterSend s [f.b0, f.b1, f.b2, f.b3, f.opc]
    env := envAfterSend s f .whole
    host := { s.host with
      task := some task
      results := s.host.results ++ [(statusByte (statusAfterSend s .none)).setWidth 32] } }

/-- Instruction `i` sends frame `f` and awaits nothing. -/
def SendsOnly (i : Instr) (f : Frame) : Prop :=
  ∀ s : State, WillSend s →
    exec i s = .next (sentState s f .whole .none (.frameSent f.opc)) ∧
    SameBuffer s (sentState s f .whole .none (.frameSent f.opc))

/-- Instruction `i` sends frame `f` and accumulates a response. -/
def SendsAndReceives (i : Instr) (f : Frame) (max min : Byte) (ms : Half) (task : Task) : Prop :=
  ∀ s : State, WillSend s →
    exec i s = .next (receivingState s f max min ms task) ∧ SameBuffer s (receivingState s f max min ms task)

/-- Instruction `i` meets a write failure on frame `f` and ends there (44_cat_commands.md R192, R194). -/
def EndsOnWriteFailure (i : Instr) (f : Frame) : Prop :=
  ∀ (s : State) (n : Nat), s.env.opened = true → txAnswer s.env = .error n →
    exec i s = .next (sentState s f (.failed n) .txError (.writeFailed f.opc)) ∧
    SameBuffer s (sentState s f (.failed n) .txError (.writeFailed f.opc))

/-- The number a host read of a register returns, by register number; none where the number is reserved for reads
(10_state.md R21, R25, R36). -/
def regValue (s : State) (num : Nat) : Option Nat :=
  match num with
  | 0x00 => some s.ctrl.toNat
  | 0x01 =>
    some ((errBits s.status.err).toNat * 32 + s.status.fok.toNat * 16 + s.status.fvalid.toNat * 8 +
      (causeBits s.status.cause).toNat)
  | 0x03 => some s.value.toNat
  | 0x04 => some s.bcd.b0.toNat
  | 0x05 => some s.bcd.b1.toNat
  | 0x06 => some s.bcd.b2.toNat
  | 0x07 => some s.bcd.b3.toNat
  | 0x08 => some s.p.b0.toNat
  | 0x09 => some s.p.b1.toNat
  | 0x0A => some s.p.b2.toNat
  | 0x0B => some s.p.b3.toNat
  | 0x0C => some s.op.toNat
  | 0x0D => some s.maxlen.toNat
  | 0x0E => some s.minlen.toNat
  | 0x0F => some s.timeout.toNat
  | 0x10 => some s.count.toNat
  | 0x11 => some s.frame.b0.toNat
  | 0x12 => some s.frame.b1.toNat
  | 0x13 => some s.frame.b2.toNat
  | 0x14 => some s.frame.b3.toNat
  | 0x15 => some s.frame.opc.toNat
  | _ => none

/-- The width of a register the host may write, CMD apart (10_state.md R21). -/
def writableWidth (num : Nat) : Option Nat :=
  if num = 0x00 then some 8
  else if num = 0x03 then some 32
  else if 0x04 ≤ num ∧ num ≤ 0x0E then some 8
  else if num = 0x0F then some 16
  else none

/-- An environment's answer as R159 lists them: the outcome of a wait, or of a read. -/
inductive AccAnswer where
  | wait (o : WaitOutcome)
  | read (a : ReadAnswer)
deriving DecidableEq, Repr

/-- `buf with buf[off+j] = bj` (42_response_accumulator.md R159). -/
def patched (buf : Nat → Byte) (off : Nat) (bs : List Byte) : Nat → Byte :=
  fun i => if off ≤ i then (bs[i - off]?).getD (buf i) else buf i

/-- `run(off, buf, answers)` of 42_response_accumulator.md R159; none where the answers run out or do not fit. -/
def accRun (maxlen minlen : Nat) :
    Nat → (Nat → Byte) → List AccAnswer → Option (Cause × Nat × (Nat → Byte))
  | off, buf, [] => if minlen ≤ off then some (.minReached, off, buf) else none
  | off, buf, .read _ :: _ => if minlen ≤ off then some (.minReached, off, buf) else none
  | off, buf, .wait .timeout :: _ =>
    if minlen ≤ off then some (.minReached, off, buf) else some (.timeout, off, buf)
  | off, buf, .wait .hardError :: _ =>
    if minlen ≤ off then some (.minReached, off, buf) else some (.hardError, 0, buf)
  | off, buf, .wait .transient :: rest =>
    if minlen ≤ off then some (.minReached, off, buf) else accRun maxlen minlen off buf rest
  | off, buf, .wait .ready :: .read r :: rest =>
    if minlen ≤ off then some (.minReached, off, buf)
    else
      match r with
      | .error => some (.hardError, 0, buf)
      | .bytes [] => some (.closed, off, buf)
      | .bytes (b :: bs) =>
        if (b :: bs).length ≤ maxlen - off then
          accRun maxlen minlen (off + (b :: bs).length) (patched buf off (b :: bs)) rest
        else none
  | off, buf, .wait .ready :: _ => if minlen ≤ off then some (.minReached, off, buf) else none

/-- A wait of the transport that ends at once in the given outcome; a timeout is a wait in which nothing happens. -/
def waitThatEnds : WaitOutcome → WaitAnswer
  | .ready => { elapsed := 0, hardError := false, ready := true, transient := false }
  | .timeout => { elapsed := 0, hardError := false, ready := false, transient := false }
  | .transient => { elapsed := 0, hardError := false, ready := false, transient := true }
  | .hardError => { elapsed := 0, hardError := true, ready := false, transient := false }

/-- The waits among the answers, in order. -/
def waitsOf : List AccAnswer → List WaitAnswer
  | [] => []
  | .wait o :: rest => waitThatEnds o :: waitsOf rest
  | .read _ :: rest => waitsOf rest

/-- The reads among the answers, in order. -/
def readsOf : List AccAnswer → List ReadAnswer
  | [] => []
  | .wait _ :: rest => readsOf rest
  | .read a :: rest => a :: readsOf rest

/-- The bytes that wait in the scripted deliveries of the transport, in order (10_state.md R43). -/
def pendingBytes : List ReadAnswer → List Byte
  | [] => []
  | .error :: rest => pendingBytes rest
  | .bytes bs :: rest => bs ++ pendingBytes rest

/-- The state with everything ACC does not depend on replaced: FRMU's and BCDU's registers
(42_response_accumulator.md R168). -/
def otherUnits (v : Word) (b q : Quad) (o : Byte) (f : Frame) (fv : Bool) (s : State) : State :=
  { s with value := v, bcd := b, p := q, op := o, frame := f, status := { s.status with fvalid := fv } }

/-- The state without what TRACE may change: the bit itself, the trace output, and the values the host has read, `CTRL`
among them (10_state.md R24). -/
def hideTrace (s : State) : State :=
  { s with ctrl := 0, trace := [], host := { s.host with results := [] } }

/-- The instruction with its parameter bytes set to zero. -/
def withoutParams : Instr → Instr
  | .pack d => .pack d
  | .unpack d => .unpack d
  | .build => .build
  | .check => .check
  | .send => .send
  | .acc => .acc
  | .probe _ _ _ _ => .probe 0 0 0 0
  | .tune _ _ _ _ => .tune 0 0 0 0
  | .setmode _ _ _ _ => .setmode 0 0 0 0
  | .readfreq _ _ _ _ => .readfreq 0 0 0 0
  | .ctcssdcs _ _ _ _ => .ctcssdcs 0 0 0 0
  | .ctcsstone _ _ _ _ => .ctcsstone 0 0 0 0
  | .rptdir _ _ _ _ => .rptdir 0 0 0 0
  | .rptofs _ _ _ _ => .rptofs 0 0 0 0
  | .eeread _ _ _ _ => .eeread 0 0 0 0

/-- A frame whose first `k` bytes are zero. -/
def zeroBefore (k : Nat) (f : Frame) : Frame :=
  ⟨if 0 < k then 0 else f.b0, if 1 < k then 0 else f.b1, if 2 < k then 0 else f.b2, if 3 < k then 0 else f.b3,
    if 4 < k then 0 else f.opc⟩

/-- The nine opcodes (30_encoding.md R88). -/
def nineOpcodes : List Byte := [0xA7, 0x01, 0x07, 0x03, 0x0A, 0x0B, 0x09, 0xF9, 0xBB]

/-- The first entries of the environment's script name one of the legal outcomes: a wait that cannot end in
`transient`. -/
def NeverTransient (ws : List WaitAnswer) : Prop :=
  ∀ w ∈ ws, w.hardError = true ∨ w.ready = true ∨ w.transient = false

end Sys2Proof.Claims

section
open Sys2Proof Sys2Proof.Machine Sys2Proof.Claims Sys2Proof.Safety

/-! ### The BCD codec (40_bcd_codec.md) -/

/-- R112, R114, R125. -/
def Obligations.PackWritesDigitsOfValue : Prop :=
  ∀ (s : State) (d : Nibble),
    (LegalDigits d → ∃ t, exec (.pack d) s = .next t ∧
      (∀ k, k < d.toNat / 2 →
        HasDigits (quadGet t.bcd k) (digit s.value.toNat (d.toNat - 1 - 2 * k))
          (digit s.value.toNat (d.toNat - 2 - 2 * k))) ∧
      (∀ k, d.toNat / 2 ≤ k → k < 4 → quadGet t.bcd k = 0) ∧
      t = withErr { s with bcd := t.bcd } .none ∧ SameBuffer s t) ∧
    (¬ LegalDigits d →
      exec (.pack d) s = .next (withErr s .illegalOperand) ∧ SameBuffer s (withErr s .illegalOperand))

/-- R113. -/
def Obligations.PackTruncatesModuloTenToTheD : Prop :=
  ∀ (s : State) (d : Nibble), LegalDigits d → ∃ t u,
    exec (.pack d) s = .next t ∧
    exec (.pack d) { s with value := BitVec.ofNat 32 (s.value.toNat % 10 ^ d.toNat) } = .next u ∧
    t.bcd = u.bcd ∧ t.value = s.value ∧ t.status = { s.status with err := .none }

/-- R116, R117. -/
def Obligations.UnpackWritesFieldValue : Prop :=
  ∀ (s : State) (d : Nibble),
    (LegalDigits d → ∃ t, exec (.unpack d) s = .next t ∧
      t.value.toNat = fieldValue ((quadBytes s.bcd).take (d.toNat / 2)) ∧
      t = withErr { s with value := t.value } .none ∧ SameBuffer s t) ∧
    (¬ LegalDigits d →
      exec (.unpack d) s = .next (withErr s .illegalOperand) ∧ SameBuffer s (withErr s .illegalOperand))

/-- R118. -/
def Obligations.UnpackStaysBelowItsBound : Prop :=
  ∀ (s : State) (d : Nibble), LegalDigits d → ∃ t, exec (.unpack d) s = .next t ∧
    99 * t.value.toNat ≤ 165 * (100 ^ (d.toNat / 2) - 1) ∧
    ((∀ k, k < d.toNat / 2 → DecimalPair (quadGet s.bcd k)) → t.value.toNat ≤ 10 ^ d.toNat - 1)

/-- R119. -/
def Obligations.PackThenUnpackReturnsValue : Prop :=
  ∀ (s : State) (d : Nibble), LegalDigits d → ∃ t u,
    exec (.pack d) s = .next t ∧ exec (.unpack d) t = .next u ∧
    u.value.toNat = s.value.toNat % 10 ^ d.toNat ∧
    (s.value.toNat < 10 ^ d.toNat → u.value = s.value)

/-- R120. -/
def Obligations.UnpackThenPackKeepsDecimalField : Prop :=
  (∀ (s : State) (d : Nibble), LegalDigits d → ∃ t u,
    exec (.unpack d) s = .next t ∧ exec (.pack d) t = .next u ∧
    ((∀ k, k < d.toNat / 2 → DecimalPair (quadGet s.bcd k)) →
      ∀ k, k < d.toNat / 2 → quadGet u.bcd k = quadGet s.bcd k) ∧
    (∀ k, d.toNat / 2 ≤ k → k < 4 → quadGet u.bcd k = 0)) ∧
  (∀ s : State, s.bcd.b0 = 0x1A → ∃ t u,
    exec (.unpack 2) s = .next t ∧ exec (.pack 2) t = .next u ∧ u.bcd.b0 = 0x20)

/-! ### The frame unit (41_frame_codec.md) -/

/-- R131, R132. -/
def Obligations.BuildLatchesParametersAndOpcode : Prop :=
  ∀ s : State, ∃ t, exec .build s = .next t ∧
    [t.frame.b0, t.frame.b1, t.frame.b2, t.frame.b3, t.frame.opc] =
      [s.p.b0, s.p.b1, s.p.b2, s.p.b3, s.op] ∧
    t = { s with frame := t.frame, status := { s.status with fvalid := true, err := .none } } ∧
    SameBuffer s t

/-- R134. -/
def Obligations.CheckComparesFrameWithSources : Prop :=
  ∀ s : State, ∃ t, exec .check s = .next t ∧
    (t.status.fok = true ↔
      s.status.fvalid = true ∧ s.frame.b0 = s.p.b0 ∧ s.frame.b1 = s.p.b1 ∧ s.frame.b2 = s.p.b2 ∧
        s.frame.b3 = s.p.b3 ∧ s.frame.opc = s.op) ∧
    t = { s with status := { s.status with fok := t.status.fok, err := .none } } ∧ SameBuffer s t

/-- R134's corner cases, R261: a CHECK right after BUILD succeeds; after a write that changes P0..P3 or OP it fails, and
the frame that would be sent is still the latched one. -/
def Obligations.CheckDetectsStaleFrame : Prop :=
  ∀ s : State, ∃ t u, exec .build s = .next t ∧ exec .check t = .next u ∧ u.status.fok = true ∧
    ∀ (num : Byte) (v : Word) (w : State), 0x08 ≤ num.toNat → num.toNat ≤ 0x0C → writeReg t num v = .ok w →
      w.frame = t.frame ∧
      ((w.p ≠ t.p ∨ w.op ≠ t.op) → ∃ x, exec .check w = .next x ∧ x.status.fok = false)

/-- R137. -/
def Obligations.SendHandsFiveBytesToTransport : Prop :=
  ∀ s : State, s.env.opened = true →
    (s.status.fvalid = false →
      exec .send s = .next (withErr s .frameNotBuilt) ∧ SameBuffer s (withErr s .frameNotBuilt)) ∧
    (s.status.fvalid = true → ∀ answer, txAnswer s.env = answer →
      ∃ t, exec .send s = .next t ∧
        t = { s with
          status := { s.status with
            err := match answer with
              | .ok => .none
              | .error _ => .txError }
          trace := traceAfterSend s [s.frame.b0, s.frame.b1, s.frame.b2, s.frame.b3, s.frame.opc]
          env := envAfterSend s s.frame
            (match answer with
              | .ok => .whole
              | .error n => .failed n) } ∧
        SameBuffer s t)

/-- R139: after TX_ERROR every prefix of the five bytes, of any length 0 to 5, is possible on the wire, and nothing
else is (log 13). -/
def Obligations.FailedSendLeavesAPrefixOnTheWire : Prop :=
  ∀ s : State, s.env.opened = true → s.status.fvalid = true →
    (∀ n, txAnswer s.env = .error n → ∃ t k, exec .send s = .next t ∧ k ≤ 5 ∧
      wireBytes t.env =
        wireBytes s.env ++ [s.frame.b0, s.frame.b1, s.frame.b2, s.frame.b3, s.frame.opc].take k) ∧
    (∀ k, k ≤ 5 → ∃ t, exec .send { s with env := { s.env with tx := [.error k] } } = .next t ∧
      t.status.err = .txError ∧
      wireBytes t.env =
        wireBytes s.env ++ [s.frame.b0, s.frame.b1, s.frame.b2, s.frame.b3, s.frame.opc].take k)

/-- R252: what needs the transport has no step where it was never opened (log 10). -/
def Obligations.UnopenedTransportIsRefused : Prop :=
  ∀ s : State, s.env.opened = false →
    exec .send s = .refused .transportNotOpen ∧ exec .acc s = .refused .transportNotOpen ∧
    ∀ p0 p1 p2 p3 : Byte,
      exec (.probe p0 p1 p2 p3) s = .refused .transportNotOpen ∧
      exec (.tune p0 p1 p2 p3) s = .refused .transportNotOpen ∧
      exec (.setmode p0 p1 p2 p3) s = .refused .transportNotOpen ∧
      exec (.readfreq p0 p1 p2 p3) s = .refused .transportNotOpen ∧
      exec (.ctcssdcs p0 p1 p2 p3) s = .refused .transportNotOpen ∧
      exec (.ctcsstone p0 p1 p2 p3) s = .refused .transportNotOpen ∧
      exec (.rptdir p0 p1 p2 p3) s = .refused .transportNotOpen ∧
      exec (.rptofs p0 p1 p2 p3) s = .refused .transportNotOpen ∧
      exec (.eeread p0 p1 p2 p3) s = .refused .transportNotOpen

/-! ### The CAT frames (44_cat_commands.md) -/

/-- R192 with R197, R199, R202 to R205: the six frames without a response. The step in one piece is the model's choice
(log 8), the recorded report too (log 16). -/
def Obligations.SilentFramesAreSent : Prop :=
  ∀ p0 p1 p2 p3 : Byte,
    SendsOnly (.tune p0 p1 p2 p3) ⟨p0, p1, p2, p3, 0x01⟩ ∧
    SendsOnly (.setmode p0 p1 p2 p3) ⟨p0, p1, p2, p3, 0x07⟩ ∧
    SendsOnly (.ctcssdcs p0 p1 p2 p3) ⟨p0, p1, p2, p3, 0x0A⟩ ∧
    SendsOnly (.ctcsstone p0 p1 p2 p3) ⟨p0, p1, p2, p3, 0x0B⟩ ∧
    SendsOnly (.rptdir p0 p1 p2 p3) ⟨p0, p1, p2, p3, 0x09⟩ ∧
    SendsOnly (.rptofs p0 p1 p2 p3) ⟨p0, p1, p2, p3, 0xF9⟩

/-- R192, R193 with R196, R200, R208: the three frames with a response; the ACC that follows waits with the operands of
the operation (log 8). -/
def Obligations.AnsweredFramesAreSentAndAwaited : Prop :=
  ∀ p0 p1 p2 p3 : Byte,
    SendsAndReceives (.probe p0 p1 p2 p3) ⟨p0, p1, p2, p3, 0xA7⟩ 128 9 100 .probe ∧
    SendsAndReceives (.readfreq p0 p1 p2 p3) ⟨p0, p1, p2, p3, 0x03⟩ 5 5 1000 .readFreq ∧
    SendsAndReceives (.eeread p0 p1 p2 p3) ⟨p0, p1, p2, p3, 0xBB⟩ 16 2 100 (.eeRead (p0 ++ p1))

/-- R192, R194: a write failure ends every one of the nine operations (log 16). -/
def Obligations.WriteFailureEndsEveryOperation : Prop :=
  ∀ p0 p1 p2 p3 : Byte,
    EndsOnWriteFailure (.probe p0 p1 p2 p3) ⟨p0, p1, p2, p3, 0xA7⟩ ∧
    EndsOnWriteFailure (.tune p0 p1 p2 p3) ⟨p0, p1, p2, p3, 0x01⟩ ∧
    EndsOnWriteFailure (.setmode p0 p1 p2 p3) ⟨p0, p1, p2, p3, 0x07⟩ ∧
    EndsOnWriteFailure (.readfreq p0 p1 p2 p3) ⟨p0, p1, p2, p3, 0x03⟩ ∧
    EndsOnWriteFailure (.ctcssdcs p0 p1 p2 p3) ⟨p0, p1, p2, p3, 0x0A⟩ ∧
    EndsOnWriteFailure (.ctcsstone p0 p1 p2 p3) ⟨p0, p1, p2, p3, 0x0B⟩ ∧
    EndsOnWriteFailure (.rptdir p0 p1 p2 p3) ⟨p0, p1, p2, p3, 0x09⟩ ∧
    EndsOnWriteFailure (.rptofs p0 p1 p2 p3) ⟨p0, p1, p2, p3, 0xF9⟩ ∧
    EndsOnWriteFailure (.eeread p0 p1 p2 p3) ⟨p0, p1, p2, p3, 0xBB⟩

/-- R93: a frame whose opcode is none of the nine is built and sent like any other (log 5, 8, 16). -/
def Obligations.UndefinedOpcodeIsSentLikeAnyOther : Prop :=
  ∀ (s : State) (f : Frame) (rest : List Request), Asks s (.frame f) rest → f.opc ∉ nineOpcodes → WillSend s →
    step s = .next (sentState (issued s rest) f .whole .none (.frameSent f.opc)) ∧
    SameBuffer s (sentState (issued s rest) f .whole .none (.frameSent f.opc))

/-- R197: the frame of `TUNE f_hz` (the operation in one step: log 8, 17). -/
def Obligations.TuneSendsFrequencyInTensOfHertz : Prop :=
  ∀ (s : State) (f : Nat) (rest : List Request),
    Asks s (.tune f) rest → f < 42949672960 → WillSend s → ∃ t, step s = .next t ∧
      t.value.toNat = f / 10 ∧
      HasDigits t.frame.b0 (digit (f / 10) 7) (digit (f / 10) 6) ∧
      HasDigits t.frame.b1 (digit (f / 10) 5) (digit (f / 10) 4) ∧
      HasDigits t.frame.b2 (digit (f / 10) 3) (digit (f / 10) 2) ∧
      HasDigits t.frame.b3 (digit (f / 10) 1) (digit (f / 10) 0) ∧
      t.frame.opc = 0x01 ∧
      t.bcd = ⟨t.frame.b0, t.frame.b1, t.frame.b2, t.frame.b3⟩ ∧ t.p = t.bcd ∧ t.op = 0x01 ∧
      t.status = statusAfterSend s .none ∧
      t = { s with
        value := t.value, bcd := t.bcd, p := t.p, op := t.op, frame := t.frame, status := t.status
        trace := traceAfterSend s (frameBytes t.frame), env := envAfterSend s t.frame .whole
        host := { s.host with queue := rest, results := t.host.results,
                              reports := s.host.reports ++ [.frameSent 0x01] } } ∧
      SameBuffer s t

/-- R203, R205, R206: the frames of `CTCSSTONE t` and `RPTOFS o_hz` (the operation in one step: log 8, 17). -/
def Obligations.ToneAndOffsetSendFourDigits : Prop :=
  ∀ (s : State) (r : Request) (v : Nat) (opc : Byte) (rest : List Request),
    ((∃ t, r = .ctcssTone t ∧ v = t ∧ opc = 0x0B) ∨ (∃ o, r = .rptOfs o ∧ v = o / 10000 ∧ opc = 0xF9)) →
    Asks s r rest → v < 2 ^ 32 → WillSend s → ∃ t, step s = .next t ∧
      t.value.toNat = v ∧
      HasDigits t.frame.b0 (digit v 3) (digit v 2) ∧ HasDigits t.frame.b1 (digit v 1) (digit v 0) ∧
      t.frame.b2 = 0 ∧ t.frame.b3 = 0 ∧ t.frame.opc = opc ∧
      t.bcd = ⟨t.frame.b0, t.frame.b1, t.frame.b2, t.frame.b3⟩ ∧ t.p = t.bcd ∧ t.op = opc ∧
      t.status = statusAfterSend s .none ∧
      t = { s with
        value := t.value, bcd := t.bcd, p := t.p, op := t.op, frame := t.frame, status := t.status
        trace := traceAfterSend s (frameBytes t.frame), env := envAfterSend s t.frame .whole
        host := { s.host with queue := rest, results := t.host.results,
                              reports := s.host.reports ++ [.frameSent opc] } } ∧
      SameBuffer s t

/-- R200: what the host does with the response of READFREQ, whatever its length (in one step: log 8, 16). -/
def Obligations.ReadFreqDecodesTheResponse : Prop :=
  ∀ s : State, s.resetIn = [] → s.rstate = .idle → s.host.task = some .readFreq → ∃ t, step s = .next t ∧
    t.bcd = ⟨readBuf s 0, readBuf s 1, readBuf s 2, readBuf s 3⟩ ∧
    t.value.toNat = fieldValue [readBuf s 0, readBuf s 1, readBuf s 2, readBuf s 3] ∧
    t.value.toNat * 10 < 2 ^ 32 ∧
    t.host.reports = s.host.reports ++
      [.frequency (t.value.toNat * 10) (readBuf s 4) (decide (s.count.toNat = 5))] ∧
    t.host.task = none ∧ t.host.queue = s.host.queue ∧ t.host.image = s.host.image ∧
    t = withErr { s with bcd := t.bcd, value := t.value, host := t.host } .none ∧ SameBuffer s t

/-- R196: the verdict of the handshake, and the identity in `BUF[0..8]` (in one step: log 8, 9, 16). -/
def Obligations.ProbeAcceptsNineBytesOrMore : Prop :=
  ∀ s : State, s.resetIn = [] → s.rstate = .idle → s.host.task = some .probe → ∃ t, step s = .next t ∧
    (s.count.toNat < 9 → t.host.reports = s.host.reports ++ [.probeFatal s.count]) ∧
    (9 ≤ s.count.toNat → ∃ ident : List Byte, ident.length = 9 ∧
      (∀ i, i < 9 → ident[i]? = some (readBuf s i)) ∧
      t.host.reports = s.host.reports ++ [.identity ident (decide (9 < s.count.toNat))]) ∧
    t.host.task = none ∧ t.host.queue = s.host.queue ∧ t.host.image = s.host.image ∧
    t = { s with host := t.host } ∧ SameBuffer s t

/-- R208, R207: the ends of EEREAD and FLUSH; the block's registers are only read (in one step: log 8, 9, 16). -/
def Obligations.EepromReadAndFlushOnlyReport : Prop :=
  ∀ (s : State) (task : Task), s.resetIn = [] → s.rstate = .idle → s.host.task = some task →
    (∀ a, task = .eeRead a → ∃ t, step s = .next t ∧
      t.host.reports = s.host.reports ++ [.cell a s.count (readBuf s 0) (readBuf s 1)] ∧
      t.host.task = none ∧ t.host.queue = s.host.queue ∧ t.host.image = s.host.image ∧
      t = { s with host := t.host } ∧ SameBuffer s t) ∧
    (task = .flush → ∃ t, step s = .next t ∧
      t.host.reports = s.host.reports ++ [.flushed] ∧
      t.host.task = none ∧ t.host.queue = s.host.queue ∧ t.host.image = s.host.image ∧
      t = { s with host := t.host } ∧ SameBuffer s t)

/-- R207: FLUSH sends no frame and starts an ACC for 128 bytes with 500 ms a wait (in one step: log 8). -/
def Obligations.FlushStartsAccumulateOnly : Prop :=
  ∀ (s : State) (rest : List Request), Asks s .flush rest → s.env.opened = true →
    step s = .next { s with
      maxlen := 128, minlen := 128, timeout := 500, rstate := .wait, offset := 0, timer := 500
      host := { s.host with queue := rest, task := some .flush } }

/-- R212, R213: one address of DUMP: no byte stops it, one byte is stored before a zero, two are stored; the host goes
on with the next address (in one step, the image as a list: log 8, 18). -/
def Obligations.DumpStoresWhatWasRead : Prop :=
  ∀ s : State, s.resetIn = [] → s.rstate = .idle → s.host.task = some .dump → ∃ t, step s = .next t ∧
    (s.count.toNat = 0 → t.host.image = s.host.image ∧ t.host.queue = s.host.queue ∧
      t.host.reports = s.host.reports ++ [.dumpStopped s.host.image.length]) ∧
    (s.count.toNat = 1 → t.host.image = s.host.image ++ [readBuf s 0, 0] ∧
      t.host.queue = .dumpNext :: s.host.queue ∧
      t.host.reports = s.host.reports ++ [.dumpShort s.host.image.length]) ∧
    (2 ≤ s.count.toNat → t.host.image = s.host.image ++ [readBuf s 0, readBuf s 1] ∧
      t.host.queue = .dumpNext :: s.host.queue ∧ t.host.reports = s.host.reports) ∧
    t.host.task = none ∧ t = { s with host := t.host } ∧ SameBuffer s t

/-- R212: the next address of a DUMP is the length of the image so far, its frame carries the address high byte first,
a marker is given once a page, and beyond 0x1924 the dump is done (log 8, 18). -/
def Obligations.DumpReadsTheNextAddress : Prop :=
  ∀ (s : State) (rest : List Request), Asks s .dumpNext rest → WillSend s → ∃ t, step s = .next t ∧
    (s.host.image.length ≤ 0x1925 →
      t.frame.b0.toNat = s.host.image.length / 256 ∧ t.frame.b1.toNat = s.host.image.length % 256 ∧
      t.frame.b2 = 0 ∧ t.frame.b3 = 0 ∧ t.frame.opc = 0xBB ∧
      t.env.wire = s.env.wire ++ [{ frame := t.frame, fate := .whole }] ∧
      t.maxlen = 16 ∧ t.minlen = 2 ∧ t.timeout = 100 ∧ t.rstate = .wait ∧ t.host.task = some .dump ∧
      t.host.reports = s.host.reports ++
        (if s.host.image.length % 256 = 0 then [.progress s.host.image.length] else [])) ∧
    (0x1926 ≤ s.host.image.length →
      t = { s with host := { s.host with queue := rest, reports := s.host.reports ++ [.dumpDone] } }) ∧
    t.host.image = s.host.image ∧ t.host.queue = rest ∧ SameBuffer s t

/-! ### The response accumulator (42_response_accumulator.md) -/

/-- R147, R169, and the rows of R148 that leave IDLE. -/
def Obligations.AccStartsOrEndsAtOnce : Prop :=
  ∀ s : State, s.env.opened = true →
    ((128 < s.maxlen.toNat ∨ s.maxlen.toNat < s.minlen.toNat) →
      exec .acc s = .next (withErr s .illegalOperand)) ∧
    (s.minlen.toNat ≤ s.maxlen.toNat → s.maxlen.toNat ≤ 128 → s.minlen.toNat = 0 →
      exec .acc s = .next { s with
        offset := 0, count := 0, rstate := .idle
        status := { s.status with cause := .minReached, err := .none } }) ∧
    (s.minlen.toNat ≤ s.maxlen.toNat → s.maxlen.toNat ≤ 128 → 0 < s.minlen.toNat →
      exec .acc s = .next { s with offset := 0, timer := s.timeout, rstate := .wait })

/-- R150, R151, R152, R157, R158: the four outcomes of a wait. That one answer of the environment is used up is the
model's choice (log 1), and that the ticks of the wait come off the timer in this one step too (log 3). -/
def Obligations.WaitOutcomesActAsStated : Prop :=
  ∀ s : State, s.resetIn = [] → s.rstate = .wait →
    ∀ w, waitAnswer s.env = w →
      (waitOutcome w s.timer = .ready →
        step s = .next { s with
          env := afterWait s.env, timer := timerAtEnd w s.timer, rstate := .read }) ∧
      (waitOutcome w s.timer = .timeout →
        step s = .next { s with
          env := afterWait s.env, timer := timerAtEnd w s.timer, rstate := .idle, count := s.offset
          status := { s.status with cause := .timeout, err := .none } }) ∧
      (waitOutcome w s.timer = .transient →
        step s = .next { s with env := afterWait s.env, timer := s.timeout }) ∧
      (waitOutcome w s.timer = .hardError →
        step s = .next { s with
          env := afterWait s.env, timer := timerAtEnd w s.timer, rstate := .idle, count := 0
          status := { s.status with cause := .hardError, err := .rxError } })

/-- R162: hard_error, ready, transient, timeout, highest first; a condition present when the timer reaches 0 wins over
the timeout, one that would come later does not. -/
def Obligations.WaitOutcomeFollowsPriority : Prop :=
  ∀ (w : WaitAnswer) (timer : Half),
    (w.elapsed ≤ timer.toNat →
      (w.hardError = true → waitOutcome w timer = .hardError) ∧
      (w.hardError = false → w.ready = true → waitOutcome w timer = .ready) ∧
      (w.hardError = false → w.ready = false → w.transient = true → waitOutcome w timer = .transient)) ∧
    (timer.toNat < w.elapsed → waitOutcome w timer = .timeout) ∧
    (w.hardError = false → w.ready = false → w.transient = false → waitOutcome w timer = .timeout)

/-- R160: the timer loses one a tick, stops at 0, and a wait that ends in timeout has run it down to 0. That
the ticks of a wait are taken off in one step is the model's choice (log 3). -/
def Obligations.TimerCountsDownAndStopsAtZero : Prop :=
  (∀ t : Half, (timerTick t).toNat = t.toNat - 1) ∧
  (∀ t : Half, timerElapse 0 t = t) ∧
  (∀ (n : Nat) (t : Half), timerElapse (n + 1) t = timerTick (timerElapse n t)) ∧
  (∀ (w : WaitAnswer) (t : Half), waitOutcome w t = .timeout → timerAtEnd w t = 0) ∧
  (∀ (w : WaitAnswer) (t : Half), waitOutcome w t ≠ .timeout → timerAtEnd w t = timerElapse w.elapsed t)

/-- R149, R153 to R156, R158: the answers of a read. The model's choices are that one answer of the environment is used up
(log 1), that what is left of a delivery stays for the next read (log 2) and the trace output as a list (log 15). -/
def Obligations.ReadAnswersActAsStated : Prop :=
  ∀ s : State, Safety.Inv s → s.resetIn = [] → s.rstate = .read →
    ∀ cap, cap = s.maxlen.toNat - s.offset.toNat →
      1 ≤ cap ∧
      (readAnswer cap s.env = .error →
        step s = .next { s with
          env := afterRead cap s.env, rstate := .idle, count := 0
          status := { s.status with cause := .hardError, err := .rxError } }) ∧
      (readAnswer cap s.env = .bytes [] →
        step s = .next { s with
          env := afterRead cap s.env, rstate := .idle, count := s.offset
          status := { s.status with cause := .closed, err := .none } }) ∧
      (∀ bs, bs ≠ [] → readAnswer cap s.env = .bytes bs → bs.length ≤ cap ∧ ∃ t, step s = .next t ∧
        t.offset.toNat = s.offset.toNat + bs.length ∧
        (∀ j (h : j < bs.length), readBuf t (s.offset.toNat + j) = bs[j]) ∧
        (∀ a, a < s.offset.toNat ∨ s.offset.toNat + bs.length ≤ a → readBuf t a = readBuf s a) ∧
        (s.offset.toNat + bs.length < s.minlen.toNat →
          t.rstate = .wait ∧ t.timer = s.timeout ∧ t.count = s.count ∧ t.status = s.status) ∧
        (s.minlen.toNat ≤ s.offset.toNat + bs.length →
          t.rstate = .idle ∧ t.timer = s.timer ∧ t.count = t.offset ∧
          t.status = { s.status with cause := .minReached, err := .none }) ∧
        t = { s with
          buf := t.buf, offset := t.offset, rstate := t.rstate, timer := t.timer, count := t.count
          status := t.status, env := afterRead cap s.env
          trace := if s.ctrl.getLsbD 0 then s.trace ++ bs.map .received else s.trace })

/-- R163 (c), 20_memory.md R66: the bytes of a read and what still waits are what waited before, in order (log 2). -/
def Obligations.ReadsAreConsecutiveBytes : Prop :=
  ∀ (e : Transport) (cap : Nat) (bs : List Byte), e.reads ≠ [] → readAnswer cap e = .bytes bs →
    bs.length ≤ cap ∧ pendingBytes e.reads = bs ++ pendingBytes (afterRead cap e).reads

/-- R159: from an ACC the machine reaches the end that the big-step function gives, for every sequence of answers that
ends it. The answers as scripted lists of the environment are the model's choice (log 1). -/
def Obligations.AccRefinesBigStep : Prop :=
  ∀ (s : State) (answers : List AccAnswer) (rest : List Request) (ws : List WaitAnswer) (rs : List ReadAnswer)
    (c : Cause) (n : Nat) (buf : Nat → Byte),
    Asks s (.wr 0x02 0x60) rest → s.env.opened = true →
    s.minlen.toNat ≤ s.maxlen.toNat → s.maxlen.toNat ≤ 128 →
    s.env.waits = waitsOf answers ++ ws → s.env.reads = readsOf answers ++ rs →
    accRun s.maxlen.toNat s.minlen.toNat 0 (readBuf s) answers = some (c, n, buf) →
    ∃ k t, Host.Core.run Sys2Proof.core k s = .next t ∧ t.rstate = .idle ∧
      t.status = { s.status with cause := c, err := if c = .hardError then .rxError else .none } ∧
      t.count.toNat = n ∧ (∀ i, readBuf t i = buf i) ∧ t.host = (issued s rest).host

/-- R164: with no `transient`, a started ACC ends within two steps for each byte still wanted (a wait and a read are a
step each: log 3; the waits as a scripted list: log 1). -/
def Obligations.AccEndsWithoutTransients : Prop :=
  ∀ s : State, Safety.Inv s → s.resetIn = [] → s.rstate ≠ .idle →
    s.minlen.toNat - s.offset.toNat ≤ s.env.waits.length → NeverTransient s.env.waits →
    ∃ k t, k ≤ 2 * (s.minlen.toNat - s.offset.toNat) ∧
      Host.Core.run Sys2Proof.core k s = .next t ∧ t.rstate = .idle

/-- R164, 70_reset_and_hazards.md R256: an environment that interrupts every wait keeps the ACC waiting, with nothing
lost and nothing gained, for as many waits as it likes. -/
def Obligations.TransientsKeepAccWaiting : Prop :=
  ∀ (n : Nat) (s : State) (ws : List WaitAnswer), s.resetIn = [] → s.rstate = .wait →
    s.env.waits = List.replicate n (waitThatEnds .transient) ++ ws →
    ∃ t, Host.Core.run Sys2Proof.core n s = .next t ∧
      t = { s with timer := t.timer, env := { s.env with waits := ws } } ∧ (0 < n → t.timer = s.timeout)

/-- R166, R158: the count at the end of an ACC, by its cause. -/
def Obligations.CountAtEndFitsCause : Prop :=
  ∀ s t : State, Safety.Inv s → s.resetIn = [] → s.rstate ≠ .idle → step s = .next t → t.rstate = .idle →
    (t.status.cause = .minReached ∧ s.minlen.toNat ≤ t.count.toNat ∧ t.count.toNat ≤ s.maxlen.toNat ∧
        t.status.err = .none) ∨
    (t.status.cause = .timeout ∧ t.count.toNat < s.minlen.toNat ∧ t.status.err = .none) ∨
    (t.status.cause = .closed ∧ t.count.toNat < s.minlen.toNat ∧ t.status.err = .none) ∨
    (t.status.cause = .hardError ∧ t.count.toNat = 0 ∧ t.status.err = .rxError)

/-- R168, its first part: ACC reads nothing of the other two units, at its start and in all its steps. -/
def Obligations.AccIsIndependentOfOtherUnits : Prop :=
  ∀ (v : Word) (b q : Quad) (o : Byte) (f : Frame) (fv : Bool) (s : State),
    exec .acc (otherUnits v b q o f fv s) = mapNext (otherUnits v b q o f fv) (exec .acc s) ∧
    (s.resetIn = [] → s.rstate ≠ .idle →
      step (otherUnits v b q o f fv s) = mapNext (otherUnits v b q o f fv) (step s))

/-! ### Host accesses and flags (43_host_access.md, 10_state.md) -/

/-- R181 with R21, R25, R36: RD returns the register's whole value and changes nothing; every other number is refused. -/
def Obligations.RdReturnsTheRegister : Prop :=
  ∀ (s : State) (num : Byte) (rest : List Request), Asks s (.rd num) rest →
    (∀ v, regValue s num.toNat = some v → ∃ w : Word, w.toNat = v ∧
      step s = .next { s with
        host := { s.host with queue := rest, results := s.host.results ++ [w] } }) ∧
    (regValue s num.toNat = none → ∃ e, step s = .refused e)

/-- R182 with R21, R24: WR stores the value, bit 0 alone for CTRL, and changes no other register, no flag, no buffer
byte. -/
def Obligations.WrStoresTheValue : Prop :=
  ∀ (s : State) (num : Byte) (v : Word) (rest : List Request) (width : Nat),
    Asks s (.wr num v) rest → writableWidth num.toNat = some width → v.toNat < 2 ^ width →
    ∃ t, step s = .next t ∧
      regValue t num.toNat = some (if num.toNat = 0 then v.toNat % 2 else v.toNat) ∧
      (∀ n, n ≠ num.toNat → regValue t n = regValue s n) ∧
      t.host = (issued s rest).host ∧ t.env = s.env ∧ t.status = s.status ∧ t.rstate = s.rstate ∧
      t.offset = s.offset ∧ t.timer = s.timer ∧ t.trace = s.trace ∧ t.resetIn = s.resetIn ∧
      t.resets = s.resets ∧ t.buf = s.buf ∧ SameBuffer s t

/-- 10_state.md R36: writes that are reserved (log 11). -/
def Obligations.ReservedWritesAreRefused : Prop :=
  ∀ (s : State) (num : Byte) (v : Word) (rest : List Request), Asks s (.wr num v) rest →
    ((num.toNat = 0x01 ∨ (0x10 ≤ num.toNat ∧ num.toNat ≤ 0x15)) → step s = .refused (.writeOfReadOnly num)) ∧
    (0x16 ≤ num.toNat → step s = .refused (.reservedRegister num))

/-- R183, 20_memory.md R66, R72: RDBUF returns the cell, consumes nothing, and is reserved beyond the buffer. -/
def Obligations.RdbufReturnsTheCell : Prop :=
  ∀ (s : State) (i : Nat) (rest : List Request), Asks s (.rdbuf i) rest →
    (i < 128 → step s = .next { s with
      host := { s.host with queue := rest, results := s.host.results ++ [(readBuf s i).setWidth 32] } }) ∧
    (128 ≤ i → step s = .refused (.reservedBufferIndex i))

/-- 10_state.md R25: the byte of STATUS. -/
def Obligations.StatusByteIsItsFields : Prop :=
  ∀ st : Status, (statusByte st).toNat =
    (match st.err with
      | .none => 0 | .illegalCommand => 1 | .illegalOperand => 2 | .frameNotBuilt => 3 | .txError => 4
      | .rxError => 5) * 32 +
    (if st.fok then 16 else 0) + (if st.fvalid then 8 else 0) +
    (match st.cause with
      | .none => 0 | .minReached => 1 | .timeout => 2 | .closed => 3 | .hardError => 4)

/-- R184: while an ACC runs the host has no step: what it wants makes no difference and stays as it is. -/
def Obligations.HostIsBlockedDuringAcc : Prop :=
  ∀ (s : State) (h : HostAgent), s.resetIn = [] → s.rstate ≠ .idle →
    step { s with host := h } = mapNext (fun t => { t with host := h }) (step s)

/-- 10_state.md R25, R35: no step but a reset clears FVALID. -/
def Obligations.FvalidIsClearedOnlyByReset : Prop :=
  ∀ s t : State, s.resetIn = [] → s.status.fvalid = true → step s = .next t → t.status.fvalid = true

/-- 20_memory.md R60, 42_response_accumulator.md R156: only the read step of an ACC changes the buffer. -/
def Obligations.OnlyReadStepsChangeTheBuffer : Prop :=
  ∀ s t : State, s.resetIn = [] → s.rstate ≠ .read → step s = .next t → t.buf = s.buf ∧ SameBuffer s t

/-! ### Encodings (30_encoding.md) -/

/-- R83: all 256 command bytes. -/
def Obligations.EveryCommandByteIsClassified : Prop :=
  ∀ (s : State) (c : Byte) (rest : List Request), Asks s (.wr 0x02 (c.setWidth 32)) rest →
    ((c.toNat / 16 = 0 ∨ 7 ≤ c.toNat / 16 ∨ (3 ≤ c.toNat / 16 ∧ c.toNat / 16 ≤ 6 ∧ c.toNat % 16 ≠ 0)) →
      step s = .next (withErr (issued s rest) .illegalCommand)) ∧
    ((c.toNat / 16 = 1 ∨ c.toNat / 16 = 2) → c.toNat % 16 ∉ [2, 4, 6, 8] →
      step s = .next (withErr (issued s rest) .illegalOperand)) ∧
    (c.toNat / 16 = 1 → c.toNat % 16 ∈ [2, 4, 6, 8] →
      step s = exec (.pack (BitVec.ofNat 4 (c.toNat % 16))) (issued s rest)) ∧
    (c.toNat / 16 = 2 → c.toNat % 16 ∈ [2, 4, 6, 8] →
      step s = exec (.unpack (BitVec.ofNat 4 (c.toNat % 16))) (issued s rest)) ∧
    (c = 0x30 → step s = exec .build (issued s rest)) ∧ (c = 0x40 → step s = exec .check (issued s rest)) ∧
    (c = 0x50 → step s = exec .send (issued s rest)) ∧ (c = 0x60 → step s = exec .acc (issued s rest))

/-- R80, R81, R86, R88: the decoder and the encoder are inverse, on every instruction and on every sequence of bytes
that is one. -/
def Obligations.DecodeAndEncodeAgree : Prop :=
  ∀ (bs : List Byte) (i : Instr), decode bs = .ok i ↔ encode i = bs

/-- R89: the opcode byte alone selects a frame's operation. -/
def Obligations.OpcodeAloneSelectsTheFrame : Prop :=
  ∀ (p0 p1 p2 p3 q0 q1 q2 q3 op : Byte),
    (decode [p0, p1, p2, p3, op]).map withoutParams = (decode [q0, q1, q2, q3, op]).map withoutParams ∧
    ((∃ i, decode [p0, p1, p2, p3, op] = .ok i) ↔ op ∈ nineOpcodes)

/-- R83, R88, 95_test_vectors.md: words written out from the encodings. -/
def Obligations.SampleWordsDecode : Prop :=
  decode [0x18] = .ok (.pack 8) ∧ decode [0x22] = .ok (.unpack 2) ∧ decode [0x30] = .ok .build ∧
  decode [0x60] = .ok .acc ∧ decode [0x14, 0x40, 0x12, 0x34, 0x01] = .ok (.tune 0x14 0x40 0x12 0x34) ∧
  decode [0x09, 0x00, 0x00, 0x00, 0x09] = .ok (.rptdir 0x09 0 0 0) ∧
  decode [0x01, 0x02, 0x00, 0x00, 0xBB] = .ok (.eeread 0x01 0x02 0 0) ∧
  decodeTableWord 40 0x00000000A7 = some (.probe 0 0 0 0)

/-! ### The machine -/

/-- 43_host_access.md R186, 30_encoding.md R97; log 6: a step runs the instruction decoded from the byte the host writes
to CMD or from the frame it sends, and takes the request off the host's queue. -/
def Obligations.StepRunsTheDecodedInstruction : Prop :=
  ∀ (s : State) (i : Instr) (rest : List Request),
    (∀ c : Byte, Asks s (.wr 0x02 (c.setWidth 32)) rest → decode [c] = .ok i → step s = exec i (issued s rest)) ∧
    (∀ f : Frame, Asks s (.frame f) rest → decode [f.b0, f.b1, f.b2, f.b3, f.opc] = .ok i →
      step s = exec i (issued s rest))

/-- 70_reset_and_hazards.md R250; log 14: a step at which the reset input is sampled and is not asserted is the step the
machine makes with no reset input at all. -/
def Obligations.ResetInputThatIsOffChangesNothing : Prop :=
  ∀ (s : State) (r : List ResetIn), s.resetIn = .off :: r →
    step s = mapNext (fun t => { t with resetIn := r }) (step { s with resetIn := [] })

/-- R250, R251, 10_state.md R46: what reset leaves, at any moment; the environment is not reached. That the host and the
trace output stay is the model's choice (log 14). -/
def Obligations.ResetRestoresEveryRegister : Prop :=
  ∀ (s : State) (r : List ResetIn), s.resetIn = .on :: r → ∃ t, step s = .next t ∧
    t.ctrl = 0 ∧ t.status = { cause := .none, fvalid := false, fok := false, err := .none } ∧
    t.value = 0 ∧ t.bcd = ⟨0, 0, 0, 0⟩ ∧ t.p = ⟨0, 0, 0, 0⟩ ∧ t.op = 0 ∧ t.maxlen = 0 ∧ t.minlen = 0 ∧
    t.timeout = 0 ∧ t.count = 0 ∧ t.frame = ⟨0, 0, 0, 0, 0⟩ ∧ t.rstate = .idle ∧ t.offset = 0 ∧ t.timer = 0 ∧
    (∀ i, readBuf t i = Config.bufDraw (s.resets + 1) i) ∧
    t.env = s.env ∧ t.host = s.host ∧ t.trace = s.trace ∧ t.resetIn = r

/-- R250: a reset during a SEND leaves a prefix of the frame on the wire and the block in its reset state. That
the host goes on with its next request is the model's choice (log 14). -/
def Obligations.ResetDuringSendLeavesAPrefix : Prop :=
  ∀ (s : State) (n : Nat) (r : List ResetIn) (rest : List Request),
    s.resetIn = .within [.duringSend n] :: r → s.rstate = .idle → s.host.task = none →
    s.host.queue = .wr 0x02 0x50 :: rest → s.env.opened = true → s.status.fvalid = true →
    ∃ t, step s = .next t ∧
      wireBytes t.env =
        wireBytes s.env ++ [s.frame.b0, s.frame.b1, s.frame.b2, s.frame.b3, s.frame.opc].take n ∧
      t = { State.reset with
        trace := t.trace, resetIn := r, resets := s.resets + 1
        env := { s.env with wire := t.env.wire }, host := { s.host with queue := rest } }

/-- 70_reset_and_hazards.md R250; log 14: a step at which the reset input stays low at every access is the step the
machine makes with no reset input at all. -/
def Obligations.LevelsThatStayLowChangeNothing : Prop :=
  ∀ (s : State) (ls : List Level) (r : List ResetIn), s.resetIn = .within ls :: r → (∀ l ∈ ls, l = .low) →
    step s = mapNext (fun t => { t with resetIn := r }) (step { s with resetIn := [] })

/-- R250 with R192; log 8, 14: reset between two accesses of a frame without a response. Reset after the first `k` of its
eight accesses leaves the block in its reset state, and the host goes on: the bytes written before are zero in the frame
sent (k <= 5), a SEND right after finds no built frame (k = 6), and a frame sent stays sent (k = 7). That the host goes
on is the model's choice (log 14). -/
def Obligations.ResetBetweenAccessesOfAFrame : Prop :=
  ∀ (s : State) (f : Frame) (k : Nat) (r : List ResetIn) (rest : List Request),
    f.opc ∉ [0xA7, 0x03, 0xBB] → k < 8 →
    s.resetIn = .within (List.replicate k .low ++ [.high]) :: r → s.rstate = .idle → s.host.task = none →
    s.host.queue = .frame f :: rest → WillSend s → ∃ t, step s = .next t ∧
      (k ≤ 5 → t.frame = zeroBefore k f ∧ t.p = ⟨t.frame.b0, t.frame.b1, t.frame.b2, t.frame.b3⟩ ∧
        t.op = t.frame.opc ∧ t.status = { cause := .none, fvalid := true, fok := false, err := .none } ∧
        t.trace = s.trace ∧ t.env = envAfterSend s (zeroBefore k f) .whole) ∧
      (k = 6 → t.frame = ⟨0, 0, 0, 0, 0⟩ ∧ t.p = ⟨0, 0, 0, 0⟩ ∧ t.op = 0 ∧
        t.status = { cause := .none, fvalid := false, fok := false, err := .frameNotBuilt } ∧
        t.trace = s.trace ∧ t.env = s.env) ∧
      (k = 7 → t.frame = ⟨0, 0, 0, 0, 0⟩ ∧ t.p = ⟨0, 0, 0, 0⟩ ∧ t.op = 0 ∧
        t.status = { cause := .none, fvalid := false, fok := false, err := .none } ∧
        t.trace = traceAfterSend s [f.b0, f.b1, f.b2, f.b3, f.opc] ∧ t.env = envAfterSend s f .whole) ∧
      t = { State.reset with
        p := t.p, op := t.op, frame := t.frame, status := t.status
        trace := t.trace, resetIn := r, resets := s.resets + 1, env := t.env
        host := { s.host with
          queue := rest
          results := s.host.results ++ [(statusByte t.status).setWidth 32]
          reports := s.host.reports ++ [.frameSent f.opc] } }

/-- R250 with R193, R196; log 8, 14: reset between two reads of the host. What it has read stays, and what it reads then is
the reset block: a count of nine or more read before the reset is followed by nine unknown bytes. -/
def Obligations.ResetBetweenReadsOfTheHost : Prop :=
  ∀ (s : State) (r : List ResetIn), s.resetIn = .within [.low, .high] :: r → s.rstate = .idle →
    s.host.task = some .probe → 9 ≤ s.count.toNat → ∃ t, step s = .next t ∧
      (∃ ident : List Byte, ident.length = 9 ∧
        (∀ i, i < 9 → ident[i]? = some (Config.bufDraw (s.resets + 1) i)) ∧
        t.host.reports = s.host.reports ++ [.identity ident (decide (9 < s.count.toNat))]) ∧
      t.host.task = none ∧ t.host.queue = s.host.queue ∧ t.host.image = s.host.image ∧
      t = { State.reset with
        trace := s.trace, resetIn := r, resets := s.resets + 1, env := s.env, host := t.host }

/-- 10_state.md R46: the invariant holds right after reset. -/
def Obligations.InvariantHoldsAtReset : Prop := Safety.Inv State.reset

/-- 10_state.md R24, R33 to R35; 20_memory.md R60; 42_response_accumulator.md R147, R153, R160: every step keeps the
invariant, from every state that has it. -/
def Obligations.EveryStepKeepsTheInvariant : Prop :=
  ∀ s t : State, Safety.Inv s → step s = .next t → Safety.Inv t

/-- 42_response_accumulator.md R153: no step of a sound state faults. -/
def Obligations.SoundStatesNeverFault : Prop :=
  ∀ (s : State) (r : Fault), Safety.Inv s → step s ≠ .fault r

/-- 10_state.md R24: apart from the bit itself, the trace output and what the host reads of CTRL, a step does the same
whatever TRACE is. -/
def Obligations.TraceHasNoProtocolEffect : Prop :=
  ∀ s u : State, hideTrace s = hideTrace u →
    mapNext hideTrace (step s) = mapNext hideTrace (step u)

end
end

