-- ==== Sys2Proof/Laws/Memory.lean ====
section
/-! SUPPORT. The laws of the response buffer: read after write, and every operation keeps the canonical form. -/

namespace Sys2Proof.Machine

theorem Memory.read_write_same (m : Memory) (a : Nat) (b : Byte) : (m.write a b).read a = some b := by
  induction m with
  | nil => simp [Memory.write, Memory.read]
  | cons c m ih =>
    obtain ⟨x, v⟩ := c
    simp only [Memory.write]
    split
    · simp [Memory.read]
    · split
      · simp [Memory.read]
      · rename_i h1 h2
        simp only [Memory.read, h2, if_false, ih]

theorem Memory.read_write_other (m : Memory) (a i : Nat) (b : Byte) (h : i ≠ a) :
    (m.write a b).read i = m.read i := by
  induction m with
  | nil => simp [Memory.write, Memory.read, h]
  | cons c m ih =>
    obtain ⟨x, v⟩ := c
    simp only [Memory.write]
    split
    · simp [Memory.read, h]
    · split
      · rename_i h1 h2
        subst h2
        simp [Memory.read, h]
      · simp only [Memory.read, ih]

theorem Memory.risingFrom_write (m : Memory) (lo a : Nat) (b : Byte) (ha : lo ≤ a)
    (h : Memory.risingFrom lo m = true) : Memory.risingFrom lo (m.write a b) = true := by
  induction m generalizing lo with
  | nil => simp [Memory.write, Memory.risingFrom, ha]
  | cons c m ih =>
    obtain ⟨x, v⟩ := c
    simp only [Memory.risingFrom, Bool.and_eq_true, decide_eq_true_eq] at h
    simp only [Memory.write]
    split
    · rename_i hax
      simp only [Memory.risingFrom, Bool.and_eq_true, decide_eq_true_eq]
      exact ⟨ha, by omega, h.2⟩
    · split
      · rename_i hax
        subst hax
        simp only [Memory.risingFrom, Bool.and_eq_true, decide_eq_true_eq]
        exact ⟨ha, h.2⟩
      · simp only [Memory.risingFrom, Bool.and_eq_true, decide_eq_true_eq]
        exact ⟨h.1, ih (x + 1) (by omega) h.2⟩

/-- A write keeps the canonical form. -/
theorem Memory.wf_write (m : Memory) (a : Nat) (b : Byte) (h : m.wf = true) : (m.write a b).wf = true :=
  Memory.risingFrom_write m 0 a b (Nat.zero_le a) h

theorem Memory.inRange_iff (m : Memory) : m.inRange = true ↔ ∀ c ∈ m, c.1 < 128 := by
  simp only [Memory.inRange, List.all_eq_true, decide_eq_true_eq]
  exact Iff.rfl

theorem Memory.mem_write (m : Memory) (a : Nat) (b : Byte) (c : Host.Cell) (h : c ∈ m.write a b) :
    c = (a, b) ∨ c ∈ m := by
  induction m with
  | nil => simpa [Memory.write] using h
  | cons d m ih =>
    obtain ⟨x, v⟩ := d
    simp only [Memory.write] at h
    split at h
    · simpa using h
    · split at h
      · simp only [List.mem_cons] at h ⊢
        tauto
      · simp only [List.mem_cons] at h ⊢
        tauto

theorem Memory.inRange_write (m : Memory) (a : Nat) (b : Byte) (ha : a < 128) (h : m.inRange = true) :
    (m.write a b).inRange = true := by
  rw [Memory.inRange_iff] at h ⊢
  intro c hc
  rcases Memory.mem_write m a b c hc with rfl | hc
  · exact ha
  · exact h c hc

/-- The stores of a read keep the canonical form. -/
theorem Memory.wf_store (m : Memory) (a : Nat) (bs : List Byte) (h : m.wf = true) :
    (m.store a bs).wf = true := by
  induction bs generalizing m a with
  | nil => exact h
  | cons b bs ih => exact ih _ _ (Memory.wf_write m a b h)

/-- The stores of a read within the buffer stay within it. -/
theorem Memory.inRange_store (m : Memory) (a : Nat) (bs : List Byte) (hb : a + bs.length ≤ 128)
    (h : m.inRange = true) : (m.store a bs).inRange = true := by
  induction bs generalizing m a with
  | nil => exact h
  | cons b bs ih =>
    simp only [List.length_cons] at hb
    exact ih _ _ (by omega) (Memory.inRange_write m a b (by omega) h)

/-- What the stores of a read leave at every address: the byte stored there, or what was there
(42_response_accumulator.md R156). -/
theorem Memory.read_store (m : Memory) (a i : Nat) (bs : List Byte) :
    (m.store a bs).read i =
      if a ≤ i then (match bs[i - a]? with
        | some b => some b
        | none => m.read i)
      else m.read i := by
  induction bs generalizing m a with
  | nil => simp [Memory.store]
  | cons b bs ih =>
    simp only [Memory.store, ih]
    by_cases hi : i = a
    · subst hi
      simp [Memory.read_write_same]
    · rw [Memory.read_write_other m a i b hi]
      by_cases hle : a ≤ i
      · have h1 : a + 1 ≤ i := by omega
        have h2 : i - a = (i - (a + 1)) + 1 := by omega
        simp only [h1, hle, if_true, h2, List.getElem?_cons_succ]
      · have h1 : ¬ a + 1 ≤ i := by omega
        simp only [h1, hle, if_false]

/-- The empty buffer of reset is canonical. -/
theorem Memory.reset_wf : State.reset.buf.wf = true := rfl

end Sys2Proof.Machine
end

