-- ==== Sys2Proof/Laws/Racc.lean ====
section
/-! SUPPORT. What each operation of the accumulator and of the transport can do, said once. -/

namespace Sys2Proof.Machine

/-- A command that needs the transport answers a next state exactly where the transport is open. -/
theorem withTransport_next (s t : State) (work : State → State) (h : withTransport s work = .next t) :
    s.env.opened = true ∧ t = work s := by
  unfold withTransport at h
  split at h
  · rename_i ho
    cases h
    exact ⟨ho, rfl⟩
  · cases h

theorem withTransport_opened (s : State) (work : State → State) (h : s.env.opened = true) :
    withTransport s work = .next (work s) := by
  simp only [withTransport, h, if_true]

theorem withTransport_unopened (s : State) (work : State → State) (h : s.env.opened = false) :
    withTransport s work = .refused .transportNotOpen := by
  simp [withTransport, h]

/-- A command that needs the transport never faults. -/
theorem withTransport_not_fault (s : State) (work : State → State) (r : Fault) :
    withTransport s work ≠ .fault r := by
  unfold withTransport
  split <;> intro h <;> cases h

/-- SEND with a built frame (41_frame_codec.md R137). -/
theorem sendOp_built (s : State) (h : s.status.fvalid = true) :
    sendOp s = setErr (errOf (txAnswer s.env)) (handOver (fateOf (txAnswer s.env)) (afterTx s.env) s) := by
  simp only [sendOp, h, if_true]

/-- SEND before the first BUILD (41_frame_codec.md R137). -/
theorem sendOp_unbuilt (s : State) (h : s.status.fvalid = false) : sendOp s = raise .frameNotBuilt s := by
  simp [sendOp, h]

/-- The operand check, on numbers (42_response_accumulator.md R147). -/
theorem accOperandsLegal_iff (s : State) :
    accOperandsLegal s = true ↔ s.maxlen.toNat ≤ 128 ∧ s.minlen.toNat ≤ s.maxlen.toNat := by
  simp only [accOperandsLegal, Bool.and_eq_true, decide_eq_true_eq, BitVec.le_def]
  exact Iff.rfl

/-- The loop test, on numbers (42_response_accumulator.md R149). -/
theorem loopTest_wait (s : State) (h : s.offset.toNat < s.minlen.toNat) : loopTest s = enterWait s := by
  have h' : s.offset < s.minlen := by rwa [BitVec.lt_def]
  simp only [loopTest, h', if_true]

theorem loopTest_done (s : State) (h : s.minlen.toNat ≤ s.offset.toNat) :
    loopTest s = finish .minReached s := by
  have h' : ¬ s.offset < s.minlen := by rw [BitVec.lt_def]; omega
  simp only [loopTest, h', if_false]

/-- The start of ACC with illegal operands (42_response_accumulator.md R147). -/
theorem accStart_illegal (s : State) (h : 128 < s.maxlen.toNat ∨ s.maxlen.toNat < s.minlen.toNat) :
    accStart s = raise .illegalOperand s := by
  have hl : ¬ accOperandsLegal s = true := by rw [accOperandsLegal_iff]; omega
  simp only [accStart, hl, if_false, Bool.false_eq_true]

/-- The start of ACC that ends at once (42_response_accumulator.md R148, R169). -/
theorem accStart_done (s : State) (h1 : s.maxlen.toNat ≤ 128) (h2 : s.minlen.toNat = 0) :
    accStart s = finish .minReached { s with offset := 0 } := by
  have hl : accOperandsLegal s = true := by rw [accOperandsLegal_iff]; omega
  rw [accStart, if_pos hl, loopTest_done]
  simp only [h2, Nat.zero_le]

/-- The start of ACC that waits (42_response_accumulator.md R148). -/
theorem accStart_waits (s : State) (h1 : s.maxlen.toNat ≤ 128) (h2 : s.minlen.toNat ≤ s.maxlen.toNat)
    (h3 : 0 < s.minlen.toNat) : accStart s = enterWait { s with offset := 0 } := by
  have hl : accOperandsLegal s = true := by rw [accOperandsLegal_iff]; omega
  rw [accStart, if_pos hl, loopTest_wait]
  exact h3

/-- The start of ACC is one of its three forms (42_response_accumulator.md R148). -/
theorem accStart_cases (s : State) :
    (accStart s = raise .illegalOperand s) ∨
    (s.maxlen.toNat ≤ 128 ∧ s.minlen.toNat = 0 ∧ accStart s = finish .minReached { s with offset := 0 }) ∨
    (s.maxlen.toNat ≤ 128 ∧ s.minlen.toNat ≤ s.maxlen.toNat ∧ 0 < s.minlen.toNat ∧
      accStart s = enterWait { s with offset := 0 }) := by
  by_cases h : 128 < s.maxlen.toNat ∨ s.maxlen.toNat < s.minlen.toNat
  · exact .inl (accStart_illegal s h)
  · by_cases hm : s.minlen.toNat = 0
    · exact .inr (.inl ⟨by omega, hm, accStart_done s (by omega) hm⟩)
    · exact .inr (.inr ⟨by omega, by omega, by omega, accStart_waits s (by omega) (by omega) (by omega)⟩)

/-- A read step where there is room (42_response_accumulator.md R153). -/
theorem readStep_room (s : State) (h1 : s.offset.toNat < s.maxlen.toNat) (h2 : s.maxlen.toNat ≤ 128) :
    readStep s =
      .next (onReadAnswer (readAnswer (readCap s) s.env) { s with env := afterRead (readCap s) s.env }) := by
  have h : s.offset < s.maxlen ∧ s.maxlen.toNat ≤ Config.bufCap := ⟨by rwa [BitVec.lt_def], h2⟩
  unfold readStep
  rw [if_pos h]

/-- A read step that answers a next state had room. -/
theorem readStep_next (s t : State) (h : readStep s = .next t) :
    s.offset.toNat < s.maxlen.toNat ∧ s.maxlen.toNat ≤ 128 ∧
    t = onReadAnswer (readAnswer (readCap s) s.env) { s with env := afterRead (readCap s) s.env } := by
  unfold readStep at h
  split at h
  · rename_i hr
    cases h
    exact ⟨by simpa [BitVec.lt_def] using hr.1, hr.2, rfl⟩
  · cases h

/-- A read returns at most the capacity asked for (00_scope.md R12). -/
theorem readAnswer_length (cap : Nat) (e : Transport) (bs : List Byte) (h : readAnswer cap e = .bytes bs) :
    bs.length ≤ cap := by
  unfold readAnswer at h
  cases hd : nextDelivery e with
  | error => rw [hd] at h; cases h
  | bytes l =>
    rw [hd] at h
    simp only [clip, ReadAnswer.bytes.injEq] at h
    subst h
    exact List.length_take_le _ _

/-- `OFFSET` after a read, on numbers (42_response_accumulator.md R156). -/
theorem storeRead_offset (bs : List Byte) (s : State) (h : s.offset.toNat + bs.length < 256) :
    (storeRead bs s).offset.toNat = s.offset.toNat + bs.length := by
  simp only [storeRead, BitVec.toNat_add, BitVec.toNat_ofNat]
  omega

/-- `BUF` after a read, address by address: the byte stored there, or what was there
(42_response_accumulator.md R156). -/
theorem readBuf_storeRead (bs : List Byte) (s : State) (i : Nat) :
    readBuf (storeRead bs s) i =
      if s.offset.toNat ≤ i then (bs[i - s.offset.toNat]?).getD (readBuf s i) else readBuf s i := by
  simp only [readBuf, storeRead, Memory.read_store]
  by_cases h : s.offset.toNat ≤ i
  · simp only [h, if_true]
    cases bs[i - s.offset.toNat]? <;> rfl
  · simp only [h, if_false]

/-- `BUF` reads the same where no cell and no reset was in between. -/
theorem readBuf_congr (s t : State) (hb : t.buf = s.buf) (hr : t.resets = s.resets) (i : Nat) :
    readBuf t i = readBuf s i := by
  simp only [readBuf, hb, hr]

end Sys2Proof.Machine
end

