-- ==== Sys2Proof/Laws/Cat.lean ====
section
/-! SUPPORT. What the host's sequences do, each said once: SENDFRAME writes the frame, the flags, the wire and the trace,
reads only extend the host's results, and a sequence keeps what each of its accesses and a reset keep. -/

namespace Sys2Proof.Machine

/-- One access of a script with the reset input low. -/
@[simp] theorem runScript_done (closing : HostAgent → HostAgent) (s : State) :
    runScript (.done closing) s = { s with host := closing s.host } := rfl

@[simp] theorem runScript_acc (k : Task) (s : State) : runScript (.acc k) s = accStart (awaiting k s) := rfl

@[simp] theorem runScript_access (work : State → State) (next : Script) (s : State) :
    runScript (.access work next) s = runScript next (work s) := rfl

@[simp] theorem runScript_send (next : Script) (s : State) :
    runScript (.send next) s = runScript next (sendOp s) := rfl

@[simp] theorem runScript_rdByte (get : State → Byte) (next : Byte → Script) (s : State) :
    runScript (.rdByte get next) s = runScript (next (get s)) (giveByte (get s) s) := rfl

@[simp] theorem runScript_rdValue (next : Word → Script) (s : State) :
    runScript (.rdValue next) s = runScript (next s.value) (giveResult s.value s) := rfl

/-- The error field of the STATUS byte is the error code. -/
theorem errField_statusByte (st : Status) : errField (statusByte st) = errBits st.err := by
  obtain ⟨c, v, o, e⟩ := st
  cases c <;> cases v <;> cases o <;> cases e <;> rfl

/-- Only TX_ERROR has its code. -/
theorem errBits_eq_txError (e : ErrCode) : errBits e = errBits .txError ↔ e = .txError := by
  cases e <;> decide

/-- After SENDFRAME: a write failure ends the operation (44_cat_commands.md R194). -/
theorem afterStatus_failed (f : Frame) (resp : Option Response) (st : Status) (h : st.err = .txError) :
    afterStatus f resp (statusByte st) = .done (noteReport (.writeFailed f.opc)) := by
  simp only [afterStatus, errField_statusByte, h, if_true]

/-- After SENDFRAME: an operation without a response is over (44_cat_commands.md R192). -/
theorem afterStatus_silent (f : Frame) (st : Status) (h : st.err ≠ .txError) :
    afterStatus f none (statusByte st) = .done (noteReport (.frameSent f.opc)) := by
  simp only [afterStatus, errField_statusByte, errBits_eq_txError, h, if_false]

/-- After SENDFRAME: an operation with a response goes on to its ACC (44_cat_commands.md R193). -/
theorem afterStatus_answered (f : Frame) (r : Response) (st : Status) (h : st.err ≠ .txError) :
    afterStatus f (some r) (statusByte st) = recv r := by
  simp only [afterStatus, errField_statusByte, errBits_eq_txError, h, if_false]

/-- The state in which SENDFRAME reads STATUS (44_cat_commands.md R192). -/
theorem sendFrame_sends (f : Frame) (s : State) :
    sendOp (buildOp (wrOp f.opc (wrP 3 f.b3 (wrP 2 f.b2 (wrP 1 f.b1 (wrP 0 f.b0 s)))))) = { s with
      p := frameParams f, op := f.opc, frame := f
      status := { s.status with fvalid := true, err := errOf (txAnswer s.env) }
      env := recordTx f (fateOf (txAnswer s.env)) (afterTx s.env)
      trace := traceSent (frameBytes f) s } := by
  rw [sendOp_built _ rfl]
  rfl

/-- SENDFRAME, then what follows on the STATUS byte (44_cat_commands.md R192). -/
theorem runScript_catScript (f : Frame) (resp : Option Response) (s t : State)
    (h : sendOp (buildOp (wrOp f.opc (wrP 3 f.b3 (wrP 2 f.b2 (wrP 1 f.b1 (wrP 0 f.b0 s)))))) = t) :
    runScript (catScript f resp) s =
      runScript (afterStatus f resp (statusByte t.status)) (giveByte (statusByte t.status) t) := by
  subst h
  rfl

/-- RECV up to its ACC (44_cat_commands.md R193). -/
theorem runScript_recv (r : Response) (s : State) :
    runScript (recv r) s = accStart { s with
      maxlen := r.maxLen, minlen := r.minLen, timeout := r.timeoutMs
      host := { s.host with task := some r.task } } := rfl

/-- The operations with a number pack it and send the four bytes (44_cat_commands.md R197, R203, R205). -/
theorem runScript_numberScript (d : Nibble) (v : Nat) (opc : Byte) (s : State) :
    ∃ t : State, t = packOp d (wrValue (BitVec.ofNat 32 v) s) ∧
      runScript (numberScript d v opc) s = runScript (catScript (layoutB t.bcd opc) none)
        (giveByte t.bcd.b3 (giveByte t.bcd.b2 (giveByte t.bcd.b1 (giveByte t.bcd.b0 t)))) := by
  refine ⟨_, rfl, ?_⟩
  simp only [numberScript, runScript, runScriptWith]
  rfl

/-- `RDBUF` of each index only adds the bytes to the host's results (44_cat_commands.md R193). -/
theorem runScript_rdbufs (is : List Nat) (next : List Byte → Script) (s : State) :
    runScript (rdbufs is next) s = runScript (next (is.map (readBuf s))) { s with
      host := { s.host with
        results := s.host.results ++ is.map (fun i => (readBuf s i).setWidth 32) } } := by
  induction is generalizing next s with
  | nil => simp [rdbufs]
  | cons i is ih =>
    show runScript (rdbufs is fun bs => next (readBuf s i :: bs)) (giveByte (readBuf s i) s) = _
    rw [ih]
    simp only [giveByte, giveResult, List.map_cons, List.append_assoc, List.singleton_append]
    rfl

/-- `RD COUNT`, `RD STATUS` only add the two values to the host's results (44_cat_commands.md R193). -/
theorem runScript_recvEnd (next : Byte → Script) (s : State) :
    runScript (recvEnd next) s = runScript (next s.count) { s with
      host := { s.host with
        results := s.host.results ++ [s.count.setWidth 32, (statusByte s.status).setWidth 32] } } := by
  show runScript (next s.count) (giveByte (statusByte s.status) (giveByte s.count s)) = _
  simp only [giveByte, giveResult, List.append_assoc]
  rfl

/-- What the host reads first when its ACC has ended (44_cat_commands.md R193). -/
def endReads (s : State) : List Word := [s.count.setWidth 32, (statusByte s.status).setWidth 32]

/-- The end of PROBE (44_cat_commands.md R196). -/
theorem finishTask_probe (s : State) : finishTask .probe s =
    if s.count.toNat < 9 then
      { s with
        host := { s.host with
          task := none, results := s.host.results ++ endReads s
          reports := s.host.reports ++ [.probeFatal s.count] } }
    else
      { s with
        host := { s.host with
          task := none
          results := s.host.results ++ endReads s ++ (List.range 9).map fun i => (readBuf s i).setWidth 32
          reports := s.host.reports ++
            [.identity ((List.range 9).map (readBuf s)) (decide (9 < s.count.toNat))] } } := by
  rw [finishTask, taskScript, probeScript, runScript_recvEnd]
  by_cases h : s.count.toNat < 9
  · rw [if_pos h, if_pos (show (clearTask s).count.toNat < 9 from h)]
    rfl
  · rw [if_neg h, if_neg (show ¬ (clearTask s).count.toNat < 9 from h), runScript_rdbufs]
    rfl

/-- The end of READFREQ (44_cat_commands.md R200). -/
theorem finishTask_readFreq (s : State) : ∃ t : State,
    t = unpackOp 8 { s with bcd := ⟨readBuf s 0, readBuf s 1, readBuf s 2, readBuf s 3⟩ } ∧
    finishTask .readFreq s = { t with
      host := { s.host with
        task := none
        results := s.host.results ++ endReads s ++
          [(readBuf s 0).setWidth 32, (readBuf s 1).setWidth 32, (readBuf s 2).setWidth 32,
            (readBuf s 3).setWidth 32, (readBuf s 4).setWidth 32, t.value]
        reports := s.host.reports ++
          [.frequency (t.value.toNat * 10) (readBuf s 4) (decide (s.count = 5))] } } := by
  refine ⟨_, rfl, ?_⟩
  rw [finishTask, taskScript, readFreqScript, runScript_recvEnd]
  simp only [runScript_rdByte, runScript_access, runScript_rdValue, runScript_done, giveByte, giveResult, wrBcd, quadSet,
    clearTask, noteReport, unpackOp, setErr, readBuf, endReads, List.append_assoc, List.singleton_append]
  rfl

/-- The end of EEREAD (44_cat_commands.md R208). -/
theorem finishTask_eeRead (a : Half) (s : State) : finishTask (.eeRead a) s = { s with
    host := { s.host with
      task := none
      results := s.host.results ++ endReads s ++ [(readBuf s 0).setWidth 32, (readBuf s 1).setWidth 32]
      reports := s.host.reports ++ [.cell a s.count (readBuf s 0) (readBuf s 1)] } } := by
  rw [finishTask, taskScript, eeReadScript, runScript_recvEnd]
  simp only [runScript_rdByte, runScript_done, giveByte, giveResult, List.append_assoc, List.singleton_append]
  rfl

/-- The end of FLUSH (44_cat_commands.md R207). -/
theorem finishTask_flush (s : State) : finishTask .flush s = { s with
    host := { s.host with
      task := none, results := s.host.results ++ endReads s, reports := s.host.reports ++ [.flushed] } } := by
  rw [finishTask, taskScript, flushScript, runScript_recvEnd]
  rfl

/-- The end of one address of DUMP (44_cat_commands.md R212). -/
theorem finishTask_dump (s : State) : finishTask .dump s = { s with
    host := dumpClosing s.count (readBuf s 0) (readBuf s 1) { s.host with
      task := none
      results := s.host.results ++ endReads s ++ [(readBuf s 0).setWidth 32, (readBuf s 1).setWidth 32] } } := by
  rw [finishTask, taskScript, dumpScript, runScript_recvEnd]
  simp only [runScript_rdByte, runScript_done, giveByte, giveResult, List.append_assoc, List.singleton_append]
  rfl

/-- A marker of DUMP only adds a report, once a page (44_cat_commands.md R212). -/
theorem dumpMark_eq (s : State) :
    dumpMark s = { s with
      host := { s.host with
        reports := s.host.reports ++
          (if s.host.image.length % 256 = 0 then [.progress s.host.image.length] else []) } } := by
  unfold dumpMark
  split
  · rfl
  · simp only [List.append_nil]

/-- Every write and command of a script keeps `P`. -/
def Keeps (P : State → Prop) : Script → Prop
  | .done _ => True
  | .acc _ => True
  | .access work next => (∀ s, P s → P (work s)) ∧ Keeps P next
  | .send next => Keeps P next
  | .rdByte _ next => ∀ b, Keeps P (next b)
  | .rdValue next => ∀ v, Keeps P (next v)

/-- A property that a reset, SEND, and everything of the host alone keep, and that the writes and commands of a sequence
keep, holds up to the end of it, whatever the reset input does; there it may turn into another one, at the start of an
ACC. -/
theorem runScriptWith_keeps (P Q : State → Prop) (hreset : ∀ s, P s → P (resetBlock s))
    (hsend : ∀ s, P s → P (sendOp s)) (hcut : ∀ n s, P s → P (sendCutByReset n s))
    (hhost : ∀ s h, P s → P { s with host := h }) (hdone : ∀ s, P s → Q s) (hacc : ∀ s, P s → Q (accStart s))
    (sc : Script) (hk : Keeps P sc) (ls : List Level) (s : State) (hs : P s) : Q (runScriptWith ls sc s) := by
  have hsampled : ∀ ls s, P s → P (sampled ls s) := by
    intro ls s h
    unfold sampled
    split
    · exact hreset s h
    · exact h
  induction sc generalizing ls s with
  | done closing => exact hdone _ (hhost s _ hs)
  | acc k => exact hacc _ (hhost _ _ (hsampled ls s hs))
  | access work next ih => exact ih hk.2 _ _ (hk.1 _ (hsampled ls s hs))
  | send next ih =>
    refine ih hk _ _ ?_
    unfold sendSampled
    split
    · exact hcut _ s hs
    · exact hsend _ (hsampled ls s hs)
  | rdByte get next ih => exact ih _ (hk _) _ _ (hhost _ _ (hsampled ls s hs))
  | rdValue next ih => exact ih _ (hk _) _ _ (hhost _ _ (hsampled ls s hs))

/-- With the reset input low at every access a sequence runs as without one. -/
theorem runScriptWith_low (sc : Script) (ls : List Level) (s : State) (h : ∀ l ∈ ls, l = .low) :
    runScriptWith ls sc s = runScript sc s := by
  have hs : ∀ ls : List Level, (∀ l ∈ ls, l = .low) → ∀ s : State,
      sampled ls s = s ∧ sendSampled ls s = sendOp s ∧ ∀ l ∈ ls.tail, l = .low := by
    intro ls h s
    cases ls with
    | nil => exact ⟨rfl, rfl, h⟩
    | cons l ls =>
      obtain rfl := h l (List.mem_cons_self ..)
      exact ⟨rfl, rfl, fun x hx => h x (List.mem_cons_of_mem _ hx)⟩
  induction sc generalizing ls s with
  | done closing => rfl
  | acc k => simp only [runScript, runScriptWith, (hs ls h s).1]; rfl
  | access work next ih =>
    simp only [runScript, runScriptWith, (hs ls h s).1]
    exact ih _ _ (hs ls h s).2.2
  | send next ih =>
    simp only [runScript, runScriptWith, (hs ls h s).2.1]
    exact ih _ _ (hs ls h s).2.2
  | rdByte get next ih =>
    simp only [runScript, runScriptWith, (hs ls h s).1]
    exact ih _ _ _ (hs ls h s).2.2
  | rdValue next ih =>
    simp only [runScript, runScriptWith, (hs ls h s).1]
    exact ih _ _ _ (hs ls h s).2.2

end Sys2Proof.Machine
end

