-- ==== Sys2Proof/Laws/Operands.lean ====
section
/-! SUPPORT. The nibbles of a pair byte and the bytes of a packed field. -/

namespace Sys2Proof.Machine

/-- The byte of a pair below 100 holds the tens in its high nibble and the ones in its low one
(40_bcd_codec.md R112). -/
theorem pairByte_toNat (p : Nat) (h : p < 100) : (pairByte p).toNat = p / 10 * 16 + p % 10 := by
  have h1 : p / 10 < 16 := by omega
  have h2 : p % 10 < 16 := by omega
  simp only [pairByte, BitVec.toNat_append, BitVec.toNat_ofNat]
  rw [Nat.mod_eq_of_lt (by omega : p / 10 < 2 ^ 4), Nat.mod_eq_of_lt (by omega : p % 10 < 2 ^ 4),
    ← Nat.shiftLeft_add_eq_or_of_lt (by omega : p % 10 < 2 ^ 4), Nat.shiftLeft_eq]

theorem tensOf_pairByte (p : Nat) (h : p < 100) : tensOf (pairByte p) = p / 10 := by
  rw [tensOf, pairByte_toNat p h]; omega

theorem onesOf_pairByte (p : Nat) (h : p < 100) : onesOf (pairByte p) = p % 10 := by
  rw [onesOf, pairByte_toNat p h]; omega

/-- A decimal pair is the pair byte of its value. -/
theorem pairByte_of_decimal (b : Byte) (h1 : tensOf b ≤ 9) (h2 : onesOf b ≤ 9) :
    pairByte (tensOf b * 10 + onesOf b) = b := by
  apply BitVec.eq_of_toNat_eq
  rw [pairByte_toNat _ (by omega)]
  simp only [tensOf, onesOf] at *
  omega

/-- The four fields PACK can write, byte by byte (40_bcd_codec.md R112, R125). -/
theorem packField_one (v : Nat) : packField 1 v = ⟨pairByte (v % 100), 0, 0, 0⟩ := rfl

theorem packField_two (v : Nat) : packField 2 v = ⟨pairByte (v / 100 % 100), pairByte (v % 100), 0, 0⟩ := rfl

theorem packField_three (v : Nat) : packField 3 v =
    ⟨pairByte (v / 100 / 100 % 100), pairByte (v / 100 % 100), pairByte (v % 100), 0⟩ := rfl

theorem packField_four (v : Nat) : packField 4 v =
    ⟨pairByte (v / 100 / 100 / 100 % 100), pairByte (v / 100 / 100 % 100), pairByte (v / 100 % 100),
      pairByte (v % 100)⟩ := rfl

/-- Each nibble of a byte is below 16. -/
theorem tensOf_lt (b : Byte) : tensOf b < 16 := by have := b.isLt; simp only [tensOf]; omega

theorem onesOf_lt (b : Byte) : onesOf b < 16 := by simp only [onesOf]; omega

/-- A field of at most four bytes fits VALUE (40_bcd_codec.md R118). -/
theorem unpackField_lt (q : Quad) (n : Nat) (h : n ≤ 4) : unpackField q n < 2 ^ 32 := by
  have t := fun k => tensOf_lt (quadGet q k)
  have o := fun k => onesOf_lt (quadGet q k)
  have t0 := t 0; have t1 := t 1; have t2 := t 2; have t3 := t 3
  have o0 := o 0; have o1 := o 1; have o2 := o 2; have o3 := o 3
  have h4 : n = 0 ∨ n = 1 ∨ n = 2 ∨ n = 3 ∨ n = 4 := by omega
  rcases h4 with rfl | rfl | rfl | rfl | rfl <;> simp only [unpackField] <;> omega

end Sys2Proof.Machine
end

