-- ==== Sys2Proof/Laws/PerInstr.lean ====
section
/-! SUPPORT. What holds of every instruction, one lemma per constructor. -/

namespace Sys2Proof.Laws

/-- A command is one byte and a frame five, whatever its operands (30_encoding.md R96). -/
def EncodedLength.Statement : Instr → Prop
  | .pack d => (encode (.pack d)).length = 1
  | .unpack d => (encode (.unpack d)).length = 1
  | .build => (encode .build).length = 1
  | .check => (encode .check).length = 1
  | .send => (encode .send).length = 1
  | .acc => (encode .acc).length = 1
  | .probe p0 p1 p2 p3 => (encode (.probe p0 p1 p2 p3)).length = Config.frameLen
  | .tune p0 p1 p2 p3 => (encode (.tune p0 p1 p2 p3)).length = Config.frameLen
  | .setmode p0 p1 p2 p3 => (encode (.setmode p0 p1 p2 p3)).length = Config.frameLen
  | .readfreq p0 p1 p2 p3 => (encode (.readfreq p0 p1 p2 p3)).length = Config.frameLen
  | .ctcssdcs p0 p1 p2 p3 => (encode (.ctcssdcs p0 p1 p2 p3)).length = Config.frameLen
  | .ctcsstone p0 p1 p2 p3 => (encode (.ctcsstone p0 p1 p2 p3)).length = Config.frameLen
  | .rptdir p0 p1 p2 p3 => (encode (.rptdir p0 p1 p2 p3)).length = Config.frameLen
  | .rptofs p0 p1 p2 p3 => (encode (.rptofs p0 p1 p2 p3)).length = Config.frameLen
  | .eeread p0 p1 p2 p3 => (encode (.eeread p0 p1 p2 p3)).length = Config.frameLen

theorem EncodedLength.pack (d : Nibble) : EncodedLength.Statement (.pack d) := rfl
theorem EncodedLength.unpack (d : Nibble) : EncodedLength.Statement (.unpack d) := rfl
theorem EncodedLength.build : EncodedLength.Statement .build := rfl
theorem EncodedLength.check : EncodedLength.Statement .check := rfl
theorem EncodedLength.send : EncodedLength.Statement .send := rfl
theorem EncodedLength.acc : EncodedLength.Statement .acc := rfl
theorem EncodedLength.probe (p0 p1 p2 p3 : Byte) : EncodedLength.Statement (.probe p0 p1 p2 p3) := rfl
theorem EncodedLength.tune (p0 p1 p2 p3 : Byte) : EncodedLength.Statement (.tune p0 p1 p2 p3) := rfl
theorem EncodedLength.setmode (p0 p1 p2 p3 : Byte) : EncodedLength.Statement (.setmode p0 p1 p2 p3) := rfl
theorem EncodedLength.readfreq (p0 p1 p2 p3 : Byte) : EncodedLength.Statement (.readfreq p0 p1 p2 p3) := rfl
theorem EncodedLength.ctcssdcs (p0 p1 p2 p3 : Byte) : EncodedLength.Statement (.ctcssdcs p0 p1 p2 p3) := rfl
theorem EncodedLength.ctcsstone (p0 p1 p2 p3 : Byte) : EncodedLength.Statement (.ctcsstone p0 p1 p2 p3) := rfl
theorem EncodedLength.rptdir (p0 p1 p2 p3 : Byte) : EncodedLength.Statement (.rptdir p0 p1 p2 p3) := rfl
theorem EncodedLength.rptofs (p0 p1 p2 p3 : Byte) : EncodedLength.Statement (.rptofs p0 p1 p2 p3) := rfl
theorem EncodedLength.eeread (p0 p1 p2 p3 : Byte) : EncodedLength.Statement (.eeread p0 p1 p2 p3) := rfl

end Sys2Proof.Laws
end

