-- ==== Sys2Proof/Laws/Run.lean ====
section
/-! SUPPORT. Runs of the host's Core in the machine's own words. -/

namespace Sys2Proof.Machine

/-- No step: the state itself. -/
theorem core_run_zero (s : State) : Host.Core.run Sys2Proof.core 0 s = .next s := rfl

/-- A run of one step and more begins with that step, on any core. -/
theorem any_core_run_succ (M : Host.Core) (k : Nat) (s t : M.State) (h : M.step s = .next t) :
    M.run (k + 1) s = M.run k t := by
  simp only [Host.Core.run, h]

/-- A run of one step and more that ends in a next state begins with a step that does, on any core. -/
theorem any_core_run_succ_next (M : Host.Core) (k : Nat) (s t : M.State) (h : M.run (k + 1) s = .next t) :
    ∃ u, M.step s = .next u ∧ M.run k u = .next t := by
  simp only [Host.Core.run] at h
  split at h
  · exact ⟨_, by assumption, h⟩
  · cases h
  · cases h

/-- A run of one step and more begins with that step. -/
theorem core_run_succ (k : Nat) (s t : State) (h : step s = .next t) :
    Host.Core.run Sys2Proof.core (k + 1) s = Host.Core.run Sys2Proof.core k t :=
  any_core_run_succ Sys2Proof.core k s t h

/-- A run that ends in a next state begins with a step that does. -/
theorem core_run_succ_next (k : Nat) (s t : State) (h : Host.Core.run Sys2Proof.core (k + 1) s = .next t) :
    ∃ u : State, step s = .next u ∧ Host.Core.run Sys2Proof.core k u = .next t :=
  any_core_run_succ_next Sys2Proof.core k s t h

/-- Two runs that end in a next state follow one another. -/
theorem core_run_add (k m : Nat) (s t : State) (h : Host.Core.run Sys2Proof.core k s = .next t) :
    Host.Core.run Sys2Proof.core (k + m) s = Host.Core.run Sys2Proof.core m t := by
  induction k generalizing s with
  | zero => rw [core_run_zero] at h; cases h; rw [Nat.zero_add]
  | succ k ih =>
    obtain ⟨u, hu, hr⟩ := core_run_succ_next k s t h
    rw [show k + 1 + m = k + m + 1 by omega, core_run_succ _ _ _ hu]
    exact ih u hr

end Sys2Proof.Machine
end

