-- ==== Sys2Proof/Laws/State.lean ====
section
/-! SUPPORT. One lemma per field and named update of State, true by rfl, so that no proof unfolds an update. -/

namespace Sys2Proof.Machine

@[simp] theorem setErr_ctrl (c : ErrCode) (s : State) : (setErr c s).ctrl = s.ctrl := rfl
@[simp] theorem setErr_status (c : ErrCode) (s : State) : (setErr c s).status = { s.status with err := c } := rfl
@[simp] theorem setErr_value (c : ErrCode) (s : State) : (setErr c s).value = s.value := rfl
@[simp] theorem setErr_bcd (c : ErrCode) (s : State) : (setErr c s).bcd = s.bcd := rfl
@[simp] theorem setErr_p (c : ErrCode) (s : State) : (setErr c s).p = s.p := rfl
@[simp] theorem setErr_op (c : ErrCode) (s : State) : (setErr c s).op = s.op := rfl
@[simp] theorem setErr_maxlen (c : ErrCode) (s : State) : (setErr c s).maxlen = s.maxlen := rfl
@[simp] theorem setErr_minlen (c : ErrCode) (s : State) : (setErr c s).minlen = s.minlen := rfl
@[simp] theorem setErr_timeout (c : ErrCode) (s : State) : (setErr c s).timeout = s.timeout := rfl
@[simp] theorem setErr_count (c : ErrCode) (s : State) : (setErr c s).count = s.count := rfl
@[simp] theorem setErr_frame (c : ErrCode) (s : State) : (setErr c s).frame = s.frame := rfl
@[simp] theorem setErr_buf (c : ErrCode) (s : State) : (setErr c s).buf = s.buf := rfl
@[simp] theorem setErr_rstate (c : ErrCode) (s : State) : (setErr c s).rstate = s.rstate := rfl
@[simp] theorem setErr_offset (c : ErrCode) (s : State) : (setErr c s).offset = s.offset := rfl
@[simp] theorem setErr_timer (c : ErrCode) (s : State) : (setErr c s).timer = s.timer := rfl
@[simp] theorem setErr_trace (c : ErrCode) (s : State) : (setErr c s).trace = s.trace := rfl
@[simp] theorem setErr_resetIn (c : ErrCode) (s : State) : (setErr c s).resetIn = s.resetIn := rfl
@[simp] theorem setErr_resets (c : ErrCode) (s : State) : (setErr c s).resets = s.resets := rfl
@[simp] theorem setErr_env (c : ErrCode) (s : State) : (setErr c s).env = s.env := rfl
@[simp] theorem setErr_host (c : ErrCode) (s : State) : (setErr c s).host = s.host := rfl

@[simp] theorem raise_ctrl (c : ErrCode) (s : State) : (raise c s).ctrl = s.ctrl := rfl
@[simp] theorem raise_status (c : ErrCode) (s : State) : (raise c s).status = { s.status with err := c } := rfl
@[simp] theorem raise_value (c : ErrCode) (s : State) : (raise c s).value = s.value := rfl
@[simp] theorem raise_bcd (c : ErrCode) (s : State) : (raise c s).bcd = s.bcd := rfl
@[simp] theorem raise_p (c : ErrCode) (s : State) : (raise c s).p = s.p := rfl
@[simp] theorem raise_op (c : ErrCode) (s : State) : (raise c s).op = s.op := rfl
@[simp] theorem raise_maxlen (c : ErrCode) (s : State) : (raise c s).maxlen = s.maxlen := rfl
@[simp] theorem raise_minlen (c : ErrCode) (s : State) : (raise c s).minlen = s.minlen := rfl
@[simp] theorem raise_timeout (c : ErrCode) (s : State) : (raise c s).timeout = s.timeout := rfl
@[simp] theorem raise_count (c : ErrCode) (s : State) : (raise c s).count = s.count := rfl
@[simp] theorem raise_frame (c : ErrCode) (s : State) : (raise c s).frame = s.frame := rfl
@[simp] theorem raise_buf (c : ErrCode) (s : State) : (raise c s).buf = s.buf := rfl
@[simp] theorem raise_rstate (c : ErrCode) (s : State) : (raise c s).rstate = s.rstate := rfl
@[simp] theorem raise_offset (c : ErrCode) (s : State) : (raise c s).offset = s.offset := rfl
@[simp] theorem raise_timer (c : ErrCode) (s : State) : (raise c s).timer = s.timer := rfl
@[simp] theorem raise_trace (c : ErrCode) (s : State) : (raise c s).trace = s.trace := rfl
@[simp] theorem raise_resetIn (c : ErrCode) (s : State) : (raise c s).resetIn = s.resetIn := rfl
@[simp] theorem raise_resets (c : ErrCode) (s : State) : (raise c s).resets = s.resets := rfl
@[simp] theorem raise_env (c : ErrCode) (s : State) : (raise c s).env = s.env := rfl
@[simp] theorem raise_host (c : ErrCode) (s : State) : (raise c s).host = s.host := rfl

@[simp] theorem setCtrl_ctrl (b : Byte) (s : State) : (setCtrl b s).ctrl = b &&& 1 := rfl
@[simp] theorem setCtrl_status (b : Byte) (s : State) : (setCtrl b s).status = s.status := rfl
@[simp] theorem setCtrl_value (b : Byte) (s : State) : (setCtrl b s).value = s.value := rfl
@[simp] theorem setCtrl_bcd (b : Byte) (s : State) : (setCtrl b s).bcd = s.bcd := rfl
@[simp] theorem setCtrl_p (b : Byte) (s : State) : (setCtrl b s).p = s.p := rfl
@[simp] theorem setCtrl_op (b : Byte) (s : State) : (setCtrl b s).op = s.op := rfl
@[simp] theorem setCtrl_maxlen (b : Byte) (s : State) : (setCtrl b s).maxlen = s.maxlen := rfl
@[simp] theorem setCtrl_minlen (b : Byte) (s : State) : (setCtrl b s).minlen = s.minlen := rfl
@[simp] theorem setCtrl_timeout (b : Byte) (s : State) : (setCtrl b s).timeout = s.timeout := rfl
@[simp] theorem setCtrl_count (b : Byte) (s : State) : (setCtrl b s).count = s.count := rfl
@[simp] theorem setCtrl_frame (b : Byte) (s : State) : (setCtrl b s).frame = s.frame := rfl
@[simp] theorem setCtrl_buf (b : Byte) (s : State) : (setCtrl b s).buf = s.buf := rfl
@[simp] theorem setCtrl_rstate (b : Byte) (s : State) : (setCtrl b s).rstate = s.rstate := rfl
@[simp] theorem setCtrl_offset (b : Byte) (s : State) : (setCtrl b s).offset = s.offset := rfl
@[simp] theorem setCtrl_timer (b : Byte) (s : State) : (setCtrl b s).timer = s.timer := rfl
@[simp] theorem setCtrl_trace (b : Byte) (s : State) : (setCtrl b s).trace = s.trace := rfl
@[simp] theorem setCtrl_resetIn (b : Byte) (s : State) : (setCtrl b s).resetIn = s.resetIn := rfl
@[simp] theorem setCtrl_resets (b : Byte) (s : State) : (setCtrl b s).resets = s.resets := rfl
@[simp] theorem setCtrl_env (b : Byte) (s : State) : (setCtrl b s).env = s.env := rfl
@[simp] theorem setCtrl_host (b : Byte) (s : State) : (setCtrl b s).host = s.host := rfl

@[simp] theorem giveResult_ctrl (v : Word) (s : State) : (giveResult v s).ctrl = s.ctrl := rfl
@[simp] theorem giveResult_status (v : Word) (s : State) : (giveResult v s).status = s.status := rfl
@[simp] theorem giveResult_value (v : Word) (s : State) : (giveResult v s).value = s.value := rfl
@[simp] theorem giveResult_bcd (v : Word) (s : State) : (giveResult v s).bcd = s.bcd := rfl
@[simp] theorem giveResult_p (v : Word) (s : State) : (giveResult v s).p = s.p := rfl
@[simp] theorem giveResult_op (v : Word) (s : State) : (giveResult v s).op = s.op := rfl
@[simp] theorem giveResult_maxlen (v : Word) (s : State) : (giveResult v s).maxlen = s.maxlen := rfl
@[simp] theorem giveResult_minlen (v : Word) (s : State) : (giveResult v s).minlen = s.minlen := rfl
@[simp] theorem giveResult_timeout (v : Word) (s : State) : (giveResult v s).timeout = s.timeout := rfl
@[simp] theorem giveResult_count (v : Word) (s : State) : (giveResult v s).count = s.count := rfl
@[simp] theorem giveResult_frame (v : Word) (s : State) : (giveResult v s).frame = s.frame := rfl
@[simp] theorem giveResult_buf (v : Word) (s : State) : (giveResult v s).buf = s.buf := rfl
@[simp] theorem giveResult_rstate (v : Word) (s : State) : (giveResult v s).rstate = s.rstate := rfl
@[simp] theorem giveResult_offset (v : Word) (s : State) : (giveResult v s).offset = s.offset := rfl
@[simp] theorem giveResult_timer (v : Word) (s : State) : (giveResult v s).timer = s.timer := rfl
@[simp] theorem giveResult_trace (v : Word) (s : State) : (giveResult v s).trace = s.trace := rfl
@[simp] theorem giveResult_resetIn (v : Word) (s : State) : (giveResult v s).resetIn = s.resetIn := rfl
@[simp] theorem giveResult_resets (v : Word) (s : State) : (giveResult v s).resets = s.resets := rfl
@[simp] theorem giveResult_env (v : Word) (s : State) : (giveResult v s).env = s.env := rfl
@[simp] theorem giveResult_host (v : Word) (s : State) : (giveResult v s).host = { s.host with results := s.host.results ++ [v] } := rfl

@[simp] theorem giveByte_ctrl (b : Byte) (s : State) : (giveByte b s).ctrl = s.ctrl := rfl
@[simp] theorem giveByte_status (b : Byte) (s : State) : (giveByte b s).status = s.status := rfl
@[simp] theorem giveByte_value (b : Byte) (s : State) : (giveByte b s).value = s.value := rfl
@[simp] theorem giveByte_bcd (b : Byte) (s : State) : (giveByte b s).bcd = s.bcd := rfl
@[simp] theorem giveByte_p (b : Byte) (s : State) : (giveByte b s).p = s.p := rfl
@[simp] theorem giveByte_op (b : Byte) (s : State) : (giveByte b s).op = s.op := rfl
@[simp] theorem giveByte_maxlen (b : Byte) (s : State) : (giveByte b s).maxlen = s.maxlen := rfl
@[simp] theorem giveByte_minlen (b : Byte) (s : State) : (giveByte b s).minlen = s.minlen := rfl
@[simp] theorem giveByte_timeout (b : Byte) (s : State) : (giveByte b s).timeout = s.timeout := rfl
@[simp] theorem giveByte_count (b : Byte) (s : State) : (giveByte b s).count = s.count := rfl
@[simp] theorem giveByte_frame (b : Byte) (s : State) : (giveByte b s).frame = s.frame := rfl
@[simp] theorem giveByte_buf (b : Byte) (s : State) : (giveByte b s).buf = s.buf := rfl
@[simp] theorem giveByte_rstate (b : Byte) (s : State) : (giveByte b s).rstate = s.rstate := rfl
@[simp] theorem giveByte_offset (b : Byte) (s : State) : (giveByte b s).offset = s.offset := rfl
@[simp] theorem giveByte_timer (b : Byte) (s : State) : (giveByte b s).timer = s.timer := rfl
@[simp] theorem giveByte_trace (b : Byte) (s : State) : (giveByte b s).trace = s.trace := rfl
@[simp] theorem giveByte_resetIn (b : Byte) (s : State) : (giveByte b s).resetIn = s.resetIn := rfl
@[simp] theorem giveByte_resets (b : Byte) (s : State) : (giveByte b s).resets = s.resets := rfl
@[simp] theorem giveByte_env (b : Byte) (s : State) : (giveByte b s).env = s.env := rfl
@[simp] theorem giveByte_host (b : Byte) (s : State) : (giveByte b s).host = { s.host with results := s.host.results ++ [b.setWidth 32] } := rfl

@[simp] theorem report_ctrl (r : Report) (s : State) : (report r s).ctrl = s.ctrl := rfl
@[simp] theorem report_status (r : Report) (s : State) : (report r s).status = s.status := rfl
@[simp] theorem report_value (r : Report) (s : State) : (report r s).value = s.value := rfl
@[simp] theorem report_bcd (r : Report) (s : State) : (report r s).bcd = s.bcd := rfl
@[simp] theorem report_p (r : Report) (s : State) : (report r s).p = s.p := rfl
@[simp] theorem report_op (r : Report) (s : State) : (report r s).op = s.op := rfl
@[simp] theorem report_maxlen (r : Report) (s : State) : (report r s).maxlen = s.maxlen := rfl
@[simp] theorem report_minlen (r : Report) (s : State) : (report r s).minlen = s.minlen := rfl
@[simp] theorem report_timeout (r : Report) (s : State) : (report r s).timeout = s.timeout := rfl
@[simp] theorem report_count (r : Report) (s : State) : (report r s).count = s.count := rfl
@[simp] theorem report_frame (r : Report) (s : State) : (report r s).frame = s.frame := rfl
@[simp] theorem report_buf (r : Report) (s : State) : (report r s).buf = s.buf := rfl
@[simp] theorem report_rstate (r : Report) (s : State) : (report r s).rstate = s.rstate := rfl
@[simp] theorem report_offset (r : Report) (s : State) : (report r s).offset = s.offset := rfl
@[simp] theorem report_timer (r : Report) (s : State) : (report r s).timer = s.timer := rfl
@[simp] theorem report_trace (r : Report) (s : State) : (report r s).trace = s.trace := rfl
@[simp] theorem report_resetIn (r : Report) (s : State) : (report r s).resetIn = s.resetIn := rfl
@[simp] theorem report_resets (r : Report) (s : State) : (report r s).resets = s.resets := rfl
@[simp] theorem report_env (r : Report) (s : State) : (report r s).env = s.env := rfl
@[simp] theorem report_host (r : Report) (s : State) : (report r s).host = { s.host with reports := s.host.reports ++ [r] } := rfl

@[simp] theorem popRequest_ctrl (s : State) : (popRequest s).ctrl = s.ctrl := rfl
@[simp] theorem popRequest_status (s : State) : (popRequest s).status = s.status := rfl
@[simp] theorem popRequest_value (s : State) : (popRequest s).value = s.value := rfl
@[simp] theorem popRequest_bcd (s : State) : (popRequest s).bcd = s.bcd := rfl
@[simp] theorem popRequest_p (s : State) : (popRequest s).p = s.p := rfl
@[simp] theorem popRequest_op (s : State) : (popRequest s).op = s.op := rfl
@[simp] theorem popRequest_maxlen (s : State) : (popRequest s).maxlen = s.maxlen := rfl
@[simp] theorem popRequest_minlen (s : State) : (popRequest s).minlen = s.minlen := rfl
@[simp] theorem popRequest_timeout (s : State) : (popRequest s).timeout = s.timeout := rfl
@[simp] theorem popRequest_count (s : State) : (popRequest s).count = s.count := rfl
@[simp] theorem popRequest_frame (s : State) : (popRequest s).frame = s.frame := rfl
@[simp] theorem popRequest_buf (s : State) : (popRequest s).buf = s.buf := rfl
@[simp] theorem popRequest_rstate (s : State) : (popRequest s).rstate = s.rstate := rfl
@[simp] theorem popRequest_offset (s : State) : (popRequest s).offset = s.offset := rfl
@[simp] theorem popRequest_timer (s : State) : (popRequest s).timer = s.timer := rfl
@[simp] theorem popRequest_trace (s : State) : (popRequest s).trace = s.trace := rfl
@[simp] theorem popRequest_resetIn (s : State) : (popRequest s).resetIn = s.resetIn := rfl
@[simp] theorem popRequest_resets (s : State) : (popRequest s).resets = s.resets := rfl
@[simp] theorem popRequest_env (s : State) : (popRequest s).env = s.env := rfl
@[simp] theorem popRequest_host (s : State) : (popRequest s).host = { s.host with queue := s.host.queue.tail } := rfl

@[simp] theorem popReset_ctrl (s : State) : (popReset s).ctrl = s.ctrl := rfl
@[simp] theorem popReset_status (s : State) : (popReset s).status = s.status := rfl
@[simp] theorem popReset_value (s : State) : (popReset s).value = s.value := rfl
@[simp] theorem popReset_bcd (s : State) : (popReset s).bcd = s.bcd := rfl
@[simp] theorem popReset_p (s : State) : (popReset s).p = s.p := rfl
@[simp] theorem popReset_op (s : State) : (popReset s).op = s.op := rfl
@[simp] theorem popReset_maxlen (s : State) : (popReset s).maxlen = s.maxlen := rfl
@[simp] theorem popReset_minlen (s : State) : (popReset s).minlen = s.minlen := rfl
@[simp] theorem popReset_timeout (s : State) : (popReset s).timeout = s.timeout := rfl
@[simp] theorem popReset_count (s : State) : (popReset s).count = s.count := rfl
@[simp] theorem popReset_frame (s : State) : (popReset s).frame = s.frame := rfl
@[simp] theorem popReset_buf (s : State) : (popReset s).buf = s.buf := rfl
@[simp] theorem popReset_rstate (s : State) : (popReset s).rstate = s.rstate := rfl
@[simp] theorem popReset_offset (s : State) : (popReset s).offset = s.offset := rfl
@[simp] theorem popReset_timer (s : State) : (popReset s).timer = s.timer := rfl
@[simp] theorem popReset_trace (s : State) : (popReset s).trace = s.trace := rfl
@[simp] theorem popReset_resetIn (s : State) : (popReset s).resetIn = s.resetIn.tail := rfl
@[simp] theorem popReset_resets (s : State) : (popReset s).resets = s.resets := rfl
@[simp] theorem popReset_env (s : State) : (popReset s).env = s.env := rfl
@[simp] theorem popReset_host (s : State) : (popReset s).host = s.host := rfl

@[simp] theorem clearTask_ctrl (s : State) : (clearTask s).ctrl = s.ctrl := rfl
@[simp] theorem clearTask_status (s : State) : (clearTask s).status = s.status := rfl
@[simp] theorem clearTask_value (s : State) : (clearTask s).value = s.value := rfl
@[simp] theorem clearTask_bcd (s : State) : (clearTask s).bcd = s.bcd := rfl
@[simp] theorem clearTask_p (s : State) : (clearTask s).p = s.p := rfl
@[simp] theorem clearTask_op (s : State) : (clearTask s).op = s.op := rfl
@[simp] theorem clearTask_maxlen (s : State) : (clearTask s).maxlen = s.maxlen := rfl
@[simp] theorem clearTask_minlen (s : State) : (clearTask s).minlen = s.minlen := rfl
@[simp] theorem clearTask_timeout (s : State) : (clearTask s).timeout = s.timeout := rfl
@[simp] theorem clearTask_count (s : State) : (clearTask s).count = s.count := rfl
@[simp] theorem clearTask_frame (s : State) : (clearTask s).frame = s.frame := rfl
@[simp] theorem clearTask_buf (s : State) : (clearTask s).buf = s.buf := rfl
@[simp] theorem clearTask_rstate (s : State) : (clearTask s).rstate = s.rstate := rfl
@[simp] theorem clearTask_offset (s : State) : (clearTask s).offset = s.offset := rfl
@[simp] theorem clearTask_timer (s : State) : (clearTask s).timer = s.timer := rfl
@[simp] theorem clearTask_trace (s : State) : (clearTask s).trace = s.trace := rfl
@[simp] theorem clearTask_resetIn (s : State) : (clearTask s).resetIn = s.resetIn := rfl
@[simp] theorem clearTask_resets (s : State) : (clearTask s).resets = s.resets := rfl
@[simp] theorem clearTask_env (s : State) : (clearTask s).env = s.env := rfl
@[simp] theorem clearTask_host (s : State) : (clearTask s).host = { s.host with task := none } := rfl

@[simp] theorem enterWait_ctrl (s : State) : (enterWait s).ctrl = s.ctrl := rfl
@[simp] theorem enterWait_status (s : State) : (enterWait s).status = s.status := rfl
@[simp] theorem enterWait_value (s : State) : (enterWait s).value = s.value := rfl
@[simp] theorem enterWait_bcd (s : State) : (enterWait s).bcd = s.bcd := rfl
@[simp] theorem enterWait_p (s : State) : (enterWait s).p = s.p := rfl
@[simp] theorem enterWait_op (s : State) : (enterWait s).op = s.op := rfl
@[simp] theorem enterWait_maxlen (s : State) : (enterWait s).maxlen = s.maxlen := rfl
@[simp] theorem enterWait_minlen (s : State) : (enterWait s).minlen = s.minlen := rfl
@[simp] theorem enterWait_timeout (s : State) : (enterWait s).timeout = s.timeout := rfl
@[simp] theorem enterWait_count (s : State) : (enterWait s).count = s.count := rfl
@[simp] theorem enterWait_frame (s : State) : (enterWait s).frame = s.frame := rfl
@[simp] theorem enterWait_buf (s : State) : (enterWait s).buf = s.buf := rfl
@[simp] theorem enterWait_rstate (s : State) : (enterWait s).rstate = .wait := rfl
@[simp] theorem enterWait_offset (s : State) : (enterWait s).offset = s.offset := rfl
@[simp] theorem enterWait_timer (s : State) : (enterWait s).timer = s.timeout := rfl
@[simp] theorem enterWait_trace (s : State) : (enterWait s).trace = s.trace := rfl
@[simp] theorem enterWait_resetIn (s : State) : (enterWait s).resetIn = s.resetIn := rfl
@[simp] theorem enterWait_resets (s : State) : (enterWait s).resets = s.resets := rfl
@[simp] theorem enterWait_env (s : State) : (enterWait s).env = s.env := rfl
@[simp] theorem enterWait_host (s : State) : (enterWait s).host = s.host := rfl

@[simp] theorem wrValue_ctrl (v : Word) (s : State) : (wrValue v s).ctrl = s.ctrl := rfl
@[simp] theorem wrValue_status (v : Word) (s : State) : (wrValue v s).status = s.status := rfl
@[simp] theorem wrValue_value (v : Word) (s : State) : (wrValue v s).value = v := rfl
@[simp] theorem wrValue_bcd (v : Word) (s : State) : (wrValue v s).bcd = s.bcd := rfl
@[simp] theorem wrValue_p (v : Word) (s : State) : (wrValue v s).p = s.p := rfl
@[simp] theorem wrValue_op (v : Word) (s : State) : (wrValue v s).op = s.op := rfl
@[simp] theorem wrValue_maxlen (v : Word) (s : State) : (wrValue v s).maxlen = s.maxlen := rfl
@[simp] theorem wrValue_minlen (v : Word) (s : State) : (wrValue v s).minlen = s.minlen := rfl
@[simp] theorem wrValue_timeout (v : Word) (s : State) : (wrValue v s).timeout = s.timeout := rfl
@[simp] theorem wrValue_count (v : Word) (s : State) : (wrValue v s).count = s.count := rfl
@[simp] theorem wrValue_frame (v : Word) (s : State) : (wrValue v s).frame = s.frame := rfl
@[simp] theorem wrValue_buf (v : Word) (s : State) : (wrValue v s).buf = s.buf := rfl
@[simp] theorem wrValue_rstate (v : Word) (s : State) : (wrValue v s).rstate = s.rstate := rfl
@[simp] theorem wrValue_offset (v : Word) (s : State) : (wrValue v s).offset = s.offset := rfl
@[simp] theorem wrValue_timer (v : Word) (s : State) : (wrValue v s).timer = s.timer := rfl
@[simp] theorem wrValue_trace (v : Word) (s : State) : (wrValue v s).trace = s.trace := rfl
@[simp] theorem wrValue_resetIn (v : Word) (s : State) : (wrValue v s).resetIn = s.resetIn := rfl
@[simp] theorem wrValue_resets (v : Word) (s : State) : (wrValue v s).resets = s.resets := rfl
@[simp] theorem wrValue_env (v : Word) (s : State) : (wrValue v s).env = s.env := rfl
@[simp] theorem wrValue_host (v : Word) (s : State) : (wrValue v s).host = s.host := rfl

@[simp] theorem wrBcd_ctrl (k : Nat) (b : Byte) (s : State) : (wrBcd k b s).ctrl = s.ctrl := rfl
@[simp] theorem wrBcd_status (k : Nat) (b : Byte) (s : State) : (wrBcd k b s).status = s.status := rfl
@[simp] theorem wrBcd_value (k : Nat) (b : Byte) (s : State) : (wrBcd k b s).value = s.value := rfl
@[simp] theorem wrBcd_bcd (k : Nat) (b : Byte) (s : State) : (wrBcd k b s).bcd = quadSet s.bcd k b := rfl
@[simp] theorem wrBcd_p (k : Nat) (b : Byte) (s : State) : (wrBcd k b s).p = s.p := rfl
@[simp] theorem wrBcd_op (k : Nat) (b : Byte) (s : State) : (wrBcd k b s).op = s.op := rfl
@[simp] theorem wrBcd_maxlen (k : Nat) (b : Byte) (s : State) : (wrBcd k b s).maxlen = s.maxlen := rfl
@[simp] theorem wrBcd_minlen (k : Nat) (b : Byte) (s : State) : (wrBcd k b s).minlen = s.minlen := rfl
@[simp] theorem wrBcd_timeout (k : Nat) (b : Byte) (s : State) : (wrBcd k b s).timeout = s.timeout := rfl
@[simp] theorem wrBcd_count (k : Nat) (b : Byte) (s : State) : (wrBcd k b s).count = s.count := rfl
@[simp] theorem wrBcd_frame (k : Nat) (b : Byte) (s : State) : (wrBcd k b s).frame = s.frame := rfl
@[simp] theorem wrBcd_buf (k : Nat) (b : Byte) (s : State) : (wrBcd k b s).buf = s.buf := rfl
@[simp] theorem wrBcd_rstate (k : Nat) (b : Byte) (s : State) : (wrBcd k b s).rstate = s.rstate := rfl
@[simp] theorem wrBcd_offset (k : Nat) (b : Byte) (s : State) : (wrBcd k b s).offset = s.offset := rfl
@[simp] theorem wrBcd_timer (k : Nat) (b : Byte) (s : State) : (wrBcd k b s).timer = s.timer := rfl
@[simp] theorem wrBcd_trace (k : Nat) (b : Byte) (s : State) : (wrBcd k b s).trace = s.trace := rfl
@[simp] theorem wrBcd_resetIn (k : Nat) (b : Byte) (s : State) : (wrBcd k b s).resetIn = s.resetIn := rfl
@[simp] theorem wrBcd_resets (k : Nat) (b : Byte) (s : State) : (wrBcd k b s).resets = s.resets := rfl
@[simp] theorem wrBcd_env (k : Nat) (b : Byte) (s : State) : (wrBcd k b s).env = s.env := rfl
@[simp] theorem wrBcd_host (k : Nat) (b : Byte) (s : State) : (wrBcd k b s).host = s.host := rfl

@[simp] theorem wrP_ctrl (k : Nat) (b : Byte) (s : State) : (wrP k b s).ctrl = s.ctrl := rfl
@[simp] theorem wrP_status (k : Nat) (b : Byte) (s : State) : (wrP k b s).status = s.status := rfl
@[simp] theorem wrP_value (k : Nat) (b : Byte) (s : State) : (wrP k b s).value = s.value := rfl
@[simp] theorem wrP_bcd (k : Nat) (b : Byte) (s : State) : (wrP k b s).bcd = s.bcd := rfl
@[simp] theorem wrP_p (k : Nat) (b : Byte) (s : State) : (wrP k b s).p = quadSet s.p k b := rfl
@[simp] theorem wrP_op (k : Nat) (b : Byte) (s : State) : (wrP k b s).op = s.op := rfl
@[simp] theorem wrP_maxlen (k : Nat) (b : Byte) (s : State) : (wrP k b s).maxlen = s.maxlen := rfl
@[simp] theorem wrP_minlen (k : Nat) (b : Byte) (s : State) : (wrP k b s).minlen = s.minlen := rfl
@[simp] theorem wrP_timeout (k : Nat) (b : Byte) (s : State) : (wrP k b s).timeout = s.timeout := rfl
@[simp] theorem wrP_count (k : Nat) (b : Byte) (s : State) : (wrP k b s).count = s.count := rfl
@[simp] theorem wrP_frame (k : Nat) (b : Byte) (s : State) : (wrP k b s).frame = s.frame := rfl
@[simp] theorem wrP_buf (k : Nat) (b : Byte) (s : State) : (wrP k b s).buf = s.buf := rfl
@[simp] theorem wrP_rstate (k : Nat) (b : Byte) (s : State) : (wrP k b s).rstate = s.rstate := rfl
@[simp] theorem wrP_offset (k : Nat) (b : Byte) (s : State) : (wrP k b s).offset = s.offset := rfl
@[simp] theorem wrP_timer (k : Nat) (b : Byte) (s : State) : (wrP k b s).timer = s.timer := rfl
@[simp] theorem wrP_trace (k : Nat) (b : Byte) (s : State) : (wrP k b s).trace = s.trace := rfl
@[simp] theorem wrP_resetIn (k : Nat) (b : Byte) (s : State) : (wrP k b s).resetIn = s.resetIn := rfl
@[simp] theorem wrP_resets (k : Nat) (b : Byte) (s : State) : (wrP k b s).resets = s.resets := rfl
@[simp] theorem wrP_env (k : Nat) (b : Byte) (s : State) : (wrP k b s).env = s.env := rfl
@[simp] theorem wrP_host (k : Nat) (b : Byte) (s : State) : (wrP k b s).host = s.host := rfl

@[simp] theorem wrOp_ctrl (b : Byte) (s : State) : (wrOp b s).ctrl = s.ctrl := rfl
@[simp] theorem wrOp_status (b : Byte) (s : State) : (wrOp b s).status = s.status := rfl
@[simp] theorem wrOp_value (b : Byte) (s : State) : (wrOp b s).value = s.value := rfl
@[simp] theorem wrOp_bcd (b : Byte) (s : State) : (wrOp b s).bcd = s.bcd := rfl
@[simp] theorem wrOp_p (b : Byte) (s : State) : (wrOp b s).p = s.p := rfl
@[simp] theorem wrOp_op (b : Byte) (s : State) : (wrOp b s).op = b := rfl
@[simp] theorem wrOp_maxlen (b : Byte) (s : State) : (wrOp b s).maxlen = s.maxlen := rfl
@[simp] theorem wrOp_minlen (b : Byte) (s : State) : (wrOp b s).minlen = s.minlen := rfl
@[simp] theorem wrOp_timeout (b : Byte) (s : State) : (wrOp b s).timeout = s.timeout := rfl
@[simp] theorem wrOp_count (b : Byte) (s : State) : (wrOp b s).count = s.count := rfl
@[simp] theorem wrOp_frame (b : Byte) (s : State) : (wrOp b s).frame = s.frame := rfl
@[simp] theorem wrOp_buf (b : Byte) (s : State) : (wrOp b s).buf = s.buf := rfl
@[simp] theorem wrOp_rstate (b : Byte) (s : State) : (wrOp b s).rstate = s.rstate := rfl
@[simp] theorem wrOp_offset (b : Byte) (s : State) : (wrOp b s).offset = s.offset := rfl
@[simp] theorem wrOp_timer (b : Byte) (s : State) : (wrOp b s).timer = s.timer := rfl
@[simp] theorem wrOp_trace (b : Byte) (s : State) : (wrOp b s).trace = s.trace := rfl
@[simp] theorem wrOp_resetIn (b : Byte) (s : State) : (wrOp b s).resetIn = s.resetIn := rfl
@[simp] theorem wrOp_resets (b : Byte) (s : State) : (wrOp b s).resets = s.resets := rfl
@[simp] theorem wrOp_env (b : Byte) (s : State) : (wrOp b s).env = s.env := rfl
@[simp] theorem wrOp_host (b : Byte) (s : State) : (wrOp b s).host = s.host := rfl

@[simp] theorem wrMaxlen_ctrl (b : Byte) (s : State) : (wrMaxlen b s).ctrl = s.ctrl := rfl
@[simp] theorem wrMaxlen_status (b : Byte) (s : State) : (wrMaxlen b s).status = s.status := rfl
@[simp] theorem wrMaxlen_value (b : Byte) (s : State) : (wrMaxlen b s).value = s.value := rfl
@[simp] theorem wrMaxlen_bcd (b : Byte) (s : State) : (wrMaxlen b s).bcd = s.bcd := rfl
@[simp] theorem wrMaxlen_p (b : Byte) (s : State) : (wrMaxlen b s).p = s.p := rfl
@[simp] theorem wrMaxlen_op (b : Byte) (s : State) : (wrMaxlen b s).op = s.op := rfl
@[simp] theorem wrMaxlen_maxlen (b : Byte) (s : State) : (wrMaxlen b s).maxlen = b := rfl
@[simp] theorem wrMaxlen_minlen (b : Byte) (s : State) : (wrMaxlen b s).minlen = s.minlen := rfl
@[simp] theorem wrMaxlen_timeout (b : Byte) (s : State) : (wrMaxlen b s).timeout = s.timeout := rfl
@[simp] theorem wrMaxlen_count (b : Byte) (s : State) : (wrMaxlen b s).count = s.count := rfl
@[simp] theorem wrMaxlen_frame (b : Byte) (s : State) : (wrMaxlen b s).frame = s.frame := rfl
@[simp] theorem wrMaxlen_buf (b : Byte) (s : State) : (wrMaxlen b s).buf = s.buf := rfl
@[simp] theorem wrMaxlen_rstate (b : Byte) (s : State) : (wrMaxlen b s).rstate = s.rstate := rfl
@[simp] theorem wrMaxlen_offset (b : Byte) (s : State) : (wrMaxlen b s).offset = s.offset := rfl
@[simp] theorem wrMaxlen_timer (b : Byte) (s : State) : (wrMaxlen b s).timer = s.timer := rfl
@[simp] theorem wrMaxlen_trace (b : Byte) (s : State) : (wrMaxlen b s).trace = s.trace := rfl
@[simp] theorem wrMaxlen_resetIn (b : Byte) (s : State) : (wrMaxlen b s).resetIn = s.resetIn := rfl
@[simp] theorem wrMaxlen_resets (b : Byte) (s : State) : (wrMaxlen b s).resets = s.resets := rfl
@[simp] theorem wrMaxlen_env (b : Byte) (s : State) : (wrMaxlen b s).env = s.env := rfl
@[simp] theorem wrMaxlen_host (b : Byte) (s : State) : (wrMaxlen b s).host = s.host := rfl

@[simp] theorem wrMinlen_ctrl (b : Byte) (s : State) : (wrMinlen b s).ctrl = s.ctrl := rfl
@[simp] theorem wrMinlen_status (b : Byte) (s : State) : (wrMinlen b s).status = s.status := rfl
@[simp] theorem wrMinlen_value (b : Byte) (s : State) : (wrMinlen b s).value = s.value := rfl
@[simp] theorem wrMinlen_bcd (b : Byte) (s : State) : (wrMinlen b s).bcd = s.bcd := rfl
@[simp] theorem wrMinlen_p (b : Byte) (s : State) : (wrMinlen b s).p = s.p := rfl
@[simp] theorem wrMinlen_op (b : Byte) (s : State) : (wrMinlen b s).op = s.op := rfl
@[simp] theorem wrMinlen_maxlen (b : Byte) (s : State) : (wrMinlen b s).maxlen = s.maxlen := rfl
@[simp] theorem wrMinlen_minlen (b : Byte) (s : State) : (wrMinlen b s).minlen = b := rfl
@[simp] theorem wrMinlen_timeout (b : Byte) (s : State) : (wrMinlen b s).timeout = s.timeout := rfl
@[simp] theorem wrMinlen_count (b : Byte) (s : State) : (wrMinlen b s).count = s.count := rfl
@[simp] theorem wrMinlen_frame (b : Byte) (s : State) : (wrMinlen b s).frame = s.frame := rfl
@[simp] theorem wrMinlen_buf (b : Byte) (s : State) : (wrMinlen b s).buf = s.buf := rfl
@[simp] theorem wrMinlen_rstate (b : Byte) (s : State) : (wrMinlen b s).rstate = s.rstate := rfl
@[simp] theorem wrMinlen_offset (b : Byte) (s : State) : (wrMinlen b s).offset = s.offset := rfl
@[simp] theorem wrMinlen_timer (b : Byte) (s : State) : (wrMinlen b s).timer = s.timer := rfl
@[simp] theorem wrMinlen_trace (b : Byte) (s : State) : (wrMinlen b s).trace = s.trace := rfl
@[simp] theorem wrMinlen_resetIn (b : Byte) (s : State) : (wrMinlen b s).resetIn = s.resetIn := rfl
@[simp] theorem wrMinlen_resets (b : Byte) (s : State) : (wrMinlen b s).resets = s.resets := rfl
@[simp] theorem wrMinlen_env (b : Byte) (s : State) : (wrMinlen b s).env = s.env := rfl
@[simp] theorem wrMinlen_host (b : Byte) (s : State) : (wrMinlen b s).host = s.host := rfl

@[simp] theorem wrTimeout_ctrl (h : Half) (s : State) : (wrTimeout h s).ctrl = s.ctrl := rfl
@[simp] theorem wrTimeout_status (h : Half) (s : State) : (wrTimeout h s).status = s.status := rfl
@[simp] theorem wrTimeout_value (h : Half) (s : State) : (wrTimeout h s).value = s.value := rfl
@[simp] theorem wrTimeout_bcd (h : Half) (s : State) : (wrTimeout h s).bcd = s.bcd := rfl
@[simp] theorem wrTimeout_p (h : Half) (s : State) : (wrTimeout h s).p = s.p := rfl
@[simp] theorem wrTimeout_op (h : Half) (s : State) : (wrTimeout h s).op = s.op := rfl
@[simp] theorem wrTimeout_maxlen (h : Half) (s : State) : (wrTimeout h s).maxlen = s.maxlen := rfl
@[simp] theorem wrTimeout_minlen (h : Half) (s : State) : (wrTimeout h s).minlen = s.minlen := rfl
@[simp] theorem wrTimeout_timeout (h : Half) (s : State) : (wrTimeout h s).timeout = h := rfl
@[simp] theorem wrTimeout_count (h : Half) (s : State) : (wrTimeout h s).count = s.count := rfl
@[simp] theorem wrTimeout_frame (h : Half) (s : State) : (wrTimeout h s).frame = s.frame := rfl
@[simp] theorem wrTimeout_buf (h : Half) (s : State) : (wrTimeout h s).buf = s.buf := rfl
@[simp] theorem wrTimeout_rstate (h : Half) (s : State) : (wrTimeout h s).rstate = s.rstate := rfl
@[simp] theorem wrTimeout_offset (h : Half) (s : State) : (wrTimeout h s).offset = s.offset := rfl
@[simp] theorem wrTimeout_timer (h : Half) (s : State) : (wrTimeout h s).timer = s.timer := rfl
@[simp] theorem wrTimeout_trace (h : Half) (s : State) : (wrTimeout h s).trace = s.trace := rfl
@[simp] theorem wrTimeout_resetIn (h : Half) (s : State) : (wrTimeout h s).resetIn = s.resetIn := rfl
@[simp] theorem wrTimeout_resets (h : Half) (s : State) : (wrTimeout h s).resets = s.resets := rfl
@[simp] theorem wrTimeout_env (h : Half) (s : State) : (wrTimeout h s).env = s.env := rfl
@[simp] theorem wrTimeout_host (h : Half) (s : State) : (wrTimeout h s).host = s.host := rfl

@[simp] theorem awaiting_ctrl (k : Task) (s : State) : (awaiting k s).ctrl = s.ctrl := rfl
@[simp] theorem awaiting_status (k : Task) (s : State) : (awaiting k s).status = s.status := rfl
@[simp] theorem awaiting_value (k : Task) (s : State) : (awaiting k s).value = s.value := rfl
@[simp] theorem awaiting_bcd (k : Task) (s : State) : (awaiting k s).bcd = s.bcd := rfl
@[simp] theorem awaiting_p (k : Task) (s : State) : (awaiting k s).p = s.p := rfl
@[simp] theorem awaiting_op (k : Task) (s : State) : (awaiting k s).op = s.op := rfl
@[simp] theorem awaiting_maxlen (k : Task) (s : State) : (awaiting k s).maxlen = s.maxlen := rfl
@[simp] theorem awaiting_minlen (k : Task) (s : State) : (awaiting k s).minlen = s.minlen := rfl
@[simp] theorem awaiting_timeout (k : Task) (s : State) : (awaiting k s).timeout = s.timeout := rfl
@[simp] theorem awaiting_count (k : Task) (s : State) : (awaiting k s).count = s.count := rfl
@[simp] theorem awaiting_frame (k : Task) (s : State) : (awaiting k s).frame = s.frame := rfl
@[simp] theorem awaiting_buf (k : Task) (s : State) : (awaiting k s).buf = s.buf := rfl
@[simp] theorem awaiting_rstate (k : Task) (s : State) : (awaiting k s).rstate = s.rstate := rfl
@[simp] theorem awaiting_offset (k : Task) (s : State) : (awaiting k s).offset = s.offset := rfl
@[simp] theorem awaiting_timer (k : Task) (s : State) : (awaiting k s).timer = s.timer := rfl
@[simp] theorem awaiting_trace (k : Task) (s : State) : (awaiting k s).trace = s.trace := rfl
@[simp] theorem awaiting_resetIn (k : Task) (s : State) : (awaiting k s).resetIn = s.resetIn := rfl
@[simp] theorem awaiting_resets (k : Task) (s : State) : (awaiting k s).resets = s.resets := rfl
@[simp] theorem awaiting_env (k : Task) (s : State) : (awaiting k s).env = s.env := rfl
@[simp] theorem awaiting_host (k : Task) (s : State) : (awaiting k s).host = { s.host with task := some k } := rfl

end Sys2Proof.Machine
end

