-- ==== Sys2Proof/Laws/Step.lean ====
section
/-! SUPPORT. What one step of the machine is, case by case: later proofs cite these and unfold no step. -/

namespace Sys2Proof.Machine

/-- Without a reset input a step is a live step. -/
theorem step_live (s : State) (h : s.resetIn = []) : step s = advanceLive s := by
  simp only [step, advance, h]

theorem step_off (s : State) (r : List ResetIn) (h : s.resetIn = .off :: r) :
    step s = advanceLive (popReset s) := by
  simp only [step, advance, h]

theorem step_on (s : State) (r : List ResetIn) (h : s.resetIn = .on :: r) :
    step s = .next (resetBlock (popReset s)) := by
  simp only [step, advance, h]

theorem step_within (s : State) (ls : List Level) (r : List ResetIn) (h : s.resetIn = .within ls :: r) :
    step s = advanceWithin ls (popReset s) := by
  simp only [step, advance, h]

theorem advanceLive_wait (s : State) (h : s.rstate = .wait) : advanceLive s = .next (waitStep s) := by
  simp only [advanceLive, h]

theorem advanceLive_read (s : State) (h : s.rstate = .read) : advanceLive s = readStep s := by
  simp only [advanceLive, h]

theorem advanceLive_task (s : State) (t : Task) (h : s.rstate = .idle) (ht : s.host.task = some t) :
    advanceLive s = .next (finishTask t s) := by
  simp only [advanceLive, h, ht]

theorem advanceLive_nothing (s : State) (h : s.rstate = .idle) (ht : s.host.task = none)
    (hq : s.host.queue = []) : advanceLive s = .next s := by
  simp only [advanceLive, h, ht, hq]

theorem advanceLive_request (s : State) (r : Request) (rest : List Request) (h : s.rstate = .idle)
    (ht : s.host.task = none) (hq : s.host.queue = r :: rest) :
    advanceLive s = runRequest r (popRequest s) := by
  simp only [advanceLive, h, ht, hq]

/-- A step of a waiting ACC. -/
theorem step_wait (s : State) (hr : s.resetIn = []) (h : s.rstate = .wait) : step s = .next (waitStep s) := by
  rw [step_live s hr, advanceLive_wait s h]

/-- A step of a reading ACC. -/
theorem step_read (s : State) (hr : s.resetIn = []) (h : s.rstate = .read) : step s = readStep s := by
  rw [step_live s hr, advanceLive_read s h]

/-- A step that ends a host sequence. -/
theorem step_task (s : State) (t : Task) (hr : s.resetIn = []) (h : s.rstate = .idle)
    (ht : s.host.task = some t) : step s = .next (finishTask t s) := by
  rw [step_live s hr, advanceLive_task s t h ht]

/-- A step that takes the host's next request. -/
theorem step_request (s : State) (r : Request) (rest : List Request) (hr : s.resetIn = [])
    (h : s.rstate = .idle) (ht : s.host.task = none) (hq : s.host.queue = r :: rest) :
    step s = runRequest r (popRequest s) := by
  rw [step_live s hr, advanceLive_request s r rest h ht hq]

/-- Everything a live step that answers a next state can have been. -/
theorem advanceLive_cases (s t : State) (h : advanceLive s = .next t) :
    (s.rstate = .wait ∧ t = waitStep s) ∨
    (s.rstate = .read ∧ readStep s = .next t) ∨
    (∃ k, s.rstate = .idle ∧ s.host.task = some k ∧ t = finishTask k s) ∨
    (s.rstate = .idle ∧ s.host.task = none ∧ s.host.queue = [] ∧ t = s) ∨
    (∃ r rest, s.rstate = .idle ∧ s.host.task = none ∧ s.host.queue = r :: rest ∧
      runRequest r (popRequest s) = .next t) := by
  cases hs : s.rstate with
  | wait =>
    rw [advanceLive_wait s hs] at h
    cases h
    exact .inl ⟨rfl, rfl⟩
  | read =>
    rw [advanceLive_read s hs] at h
    exact .inr (.inl ⟨rfl, h⟩)
  | idle =>
    cases ht : s.host.task with
    | some k =>
      rw [advanceLive_task s k hs ht] at h
      cases h
      exact .inr (.inr (.inl ⟨k, rfl, rfl, rfl⟩))
    | none =>
      cases hq : s.host.queue with
      | nil =>
        rw [advanceLive_nothing s hs ht hq] at h
        cases h
        exact .inr (.inr (.inr (.inl ⟨rfl, rfl, rfl, rfl⟩)))
      | cons r rest =>
        rw [advanceLive_request s r rest hs ht hq] at h
        exact .inr (.inr (.inr (.inr ⟨r, rest, rfl, rfl, rfl, h⟩)))

/-- Everything a step that answers a next state can have been. -/
theorem step_cases (s t : State) (h : step s = .next t) :
    (s.resetIn = [] ∧ advanceLive s = .next t) ∨
    (∃ r, s.resetIn = .off :: r ∧ advanceLive (popReset s) = .next t) ∨
    (∃ r, s.resetIn = .on :: r ∧ t = resetBlock (popReset s)) ∨
    (∃ ls r, s.resetIn = .within ls :: r ∧ advanceWithin ls (popReset s) = .next t) := by
  cases hr : s.resetIn with
  | nil => rw [step_live s hr] at h; exact .inl ⟨rfl, h⟩
  | cons x r =>
    cases x with
    | off => rw [step_off s r hr] at h; exact .inr (.inl ⟨r, rfl, h⟩)
    | on =>
      rw [step_on s r hr] at h
      cases h
      exact .inr (.inr (.inl ⟨r, rfl, rfl⟩))
    | within ls =>
      rw [step_within s ls r hr] at h
      exact .inr (.inr (.inr ⟨ls, r, rfl, h⟩))

/-- A write of a byte to CMD runs the command it encodes and stores nothing (43_host_access.md R186). -/
theorem runRequest_command (c : Byte) (s : State) : runRequest (.wr 0x02 (c.setWidth 32)) s = runCommand c s := by
  have h : (c.setWidth 32).toNat < 2 ^ 8 := by
    have := c.isLt
    simp only [BitVec.toNat_setWidth]
    omega
  have e : (c.setWidth 32).setWidth 8 = c := by simp
  have n : (0x02 : Byte).toNat = 2 := rfl
  simp only [runRequest, writeReg, n, write8, h, if_true, e]

/-- Running a decoded frame is the operation of its opcode, with the response that opcode has
(30_encoding.md R88, R89). -/
theorem runFrame_eq (f : Frame) (s : State) : runFrame f s = catCommand f (responseOf f) s := by
  obtain ⟨b0, b1, b2, b3, op⟩ := f
  simp only [runFrame, frameBytes, decode, decodeFrame, responseOf]
  split
  · rename_i i h
    split at h <;> rename_i hop
    case h_10 => cases h
    all_goals
      cases h
      have e : op = BitVec.ofNat 8 op.toNat := by simp
      rw [hop] at e
      subst e
      rfl
  · rename_i e h
    split at h
    case h_10 h1 _ _ h4 _ _ _ _ h9 =>
      split
      · exact absurd (by assumption) h1
      · exact absurd (by assumption) h4
      · exact absurd (by assumption) h9
      · rfl
    all_goals cases h

/-- The sequence of a request is what the request runs on an open transport. -/
theorem runRequest_sequence (r : Request) (s t : State) (sc : Script) (ho : s.env.opened = true)
    (h : sequenceOf r s = some (sc, t)) : runRequest r s = .next (runScript sc t) := by
  have number : ∀ d v opc, numberSequence d v opc s = some (sc, t) →
      runNumber d v opc s = .next (runScript sc t) := by
    intro d v opc hn
    have ht : t = s := by
      unfold numberSequence at hn
      split at hn <;> cases hn
      rfl
    simp only [runNumber, hn]
    exact withTransport_opened _ _ (by rw [ht]; exact ho)
  have dump : ∀ u : State, u.env.opened = true → dumpSequence u = some (sc, t) →
      runDump u = .next (runScript sc t) := by
    intro u hu hd
    have ht : t = dumpMark u := by
      unfold dumpSequence at hd
      split at hd <;> cases hd
      rfl
    simp only [runDump, hd]
    refine withTransport_opened _ _ ?_
    rw [ht, dumpMark]
    split
    · exact hu
    · exact hu
  cases r with
  | rd num => cases h
  | rdbuf i => cases h
  | wr num v =>
    simp only [sequenceOf] at h
    split at h
    · rename_i hc
      obtain ⟨rfl, rfl⟩ := hc
      cases h
      rw [show (0x50 : Word) = (0x50 : Byte).setWidth 32 from rfl, runRequest_command]
      exact withTransport_opened _ sendOp ho
    · cases h
  | frame f =>
    cases h
    rw [runRequest, runFrame_eq]
    exact withTransport_opened _ _ ho
  | tune f => exact number _ _ _ h
  | ctcssTone n => exact number _ _ _ h
  | rptOfs n => exact number _ _ _ h
  | flush =>
    cases h
    exact withTransport_opened _ _ ho
  | dump => exact dump (dumpClear s) ho h
  | dumpNext => exact dump s ho h

/-- The sequence of a step is what the step runs without a reset. -/
theorem advanceLive_sequence (s t : State) (sc : Script) (h : stepSequence s = some (sc, t)) :
    advanceLive s = .next (runScript sc t) := by
  unfold stepSequence at h
  split at h
  · cases h
  · cases h
  · rename_i hr
    split at h
    · rename_i k hk
      cases h
      exact advanceLive_task s k hr hk
    · rename_i hk
      split at h
      · cases h
      · rename_i r rest hq
        split at h
        · rename_i ho
          rw [advanceLive_request s r rest hr hk hq]
          exact runRequest_sequence r _ _ _ ho h
        · cases h

/-- Everything a step under a reset input of several levels can be. -/
theorem advanceWithin_cases (ls : List Level) (s : State) :
    (∃ sc t, stepSequence s = some (sc, t) ∧ advanceWithin ls s = .next (runScriptWith ls sc t)) ∨
    (stepSequence s = none ∧ asserted ls = true ∧ advanceWithin ls s = .next (resetBlock s)) ∨
    (stepSequence s = none ∧ asserted ls = false ∧ advanceWithin ls s = advanceLive s) := by
  cases h : stepSequence s with
  | some q => exact .inl ⟨q.1, q.2, rfl, by simp only [advanceWithin, h]⟩
  | none =>
    cases ha : asserted ls with
    | true => exact .inr (.inl ⟨rfl, rfl, by simp only [advanceWithin, h, ha, if_true]⟩)
    | false => exact .inr (.inr ⟨rfl, rfl, by simp [advanceWithin, h, ha]⟩)

end Sys2Proof.Machine
end

