-- ==== Sys2Proof/Tests/Slice0.lean ====
section
/-! SUPPORT. Tests: ill-formed terms, words written out from 30_encoding.md, single steps with the results that
95_test_vectors.md or the cited rule gives, and a witness for the hypotheses of every statement. -/

namespace Sys2Proof.Tests

open Sys2Proof Sys2Proof.Machine Sys2Proof.Claims Sys2Proof.Safety

/-! ### Ill-formed terms (30_encoding.md R82, R87, R91, R92) -/

theorem test_wf_refuses_three_digits : wellFormed (.pack 3) = false := by decide
theorem test_wf_refuses_ten_digits : wellFormed (.unpack 10) = false := by decide
theorem test_wf_refuses_parameters_of_Z : wellFormed (.probe 0 0 0 1) = false := by decide
theorem test_wf_refuses_parameters_of_Z_read : wellFormed (.readfreq 1 0 0 0) = false := by decide
theorem test_wf_refuses_hex_digit_of_B8 : wellFormed (.tune 0x14 0x40 0x12 0x3A) = false := by decide
theorem test_wf_refuses_tail_of_B4 : wellFormed (.ctcsstone 0x08 0x85 0x00 0x01) = false := by decide
theorem test_wf_refuses_hex_digit_of_B4 : wellFormed (.rptofs 0xA0 0x60 0x00 0x00) = false := by decide
theorem test_wf_refuses_tail_of_E : wellFormed (.setmode 0x08 0x01 0 0) = false := by decide
theorem test_wf_refuses_value_of_ctcssdcs : wellFormed (.ctcssdcs 0x2B 0 0 0) = false := by decide
theorem test_wf_refuses_value_of_rptdir : wellFormed (.rptdir 0x48 0 0 0) = false := by decide
theorem test_wf_refuses_tail_of_A : wellFormed (.eeread 0x19 0x24 0x01 0) = false := by decide
theorem test_wf_accepts : [Instr.pack 8, .unpack 2, .build, .acc, .probe 0 0 0 0, .tune 0x14 0x40 0x12 0x34,
    .setmode 0x08 0 0 0, .ctcssdcs 0x8A 0 0 0, .ctcsstone 0x08 0x85 0 0, .rptdir 0x89 0 0 0,
    .rptofs 0x00 0x60 0 0, .eeread 0x19 0x24 0 0].all wellFormed = true := by decide

/-! ### Words written out from the encodings (30_encoding.md R81, R86, R88) -/

theorem test_decode_pack : decode [0x18] = .ok (.pack 8) := by decide
theorem test_decode_unpack : decode [0x24] = .ok (.unpack 4) := by decide
theorem test_decode_build : decode [0x30] = .ok .build := by decide
theorem test_decode_check : decode [0x40] = .ok .check := by decide
theorem test_decode_send : decode [0x50] = .ok .send := by decide
theorem test_decode_acc : decode [0x60] = .ok .acc := by decide
theorem test_decode_probe : decode [0x00, 0x00, 0x00, 0x00, 0xA7] = .ok (.probe 0 0 0 0) := by decide
theorem test_decode_tune : decode [0x14, 0x40, 0x12, 0x34, 0x01] = .ok (.tune 0x14 0x40 0x12 0x34) := by decide
theorem test_decode_setmode : decode [0x08, 0x00, 0x00, 0x00, 0x07] = .ok (.setmode 0x08 0 0 0) := by decide
theorem test_decode_readfreq : decode [0x00, 0x00, 0x00, 0x00, 0x03] = .ok (.readfreq 0 0 0 0) := by decide
theorem test_decode_ctcssdcs : decode [0x2A, 0x00, 0x00, 0x00, 0x0A] = .ok (.ctcssdcs 0x2A 0 0 0) := by decide
theorem test_decode_ctcsstone : decode [0x08, 0x85, 0x00, 0x00, 0x0B] = .ok (.ctcsstone 0x08 0x85 0 0) := by decide
theorem test_decode_rptdir : decode [0x49, 0x00, 0x00, 0x00, 0x09] = .ok (.rptdir 0x49 0 0 0) := by decide
theorem test_decode_rptofs : decode [0x00, 0x60, 0x00, 0x00, 0xF9] = .ok (.rptofs 0x00 0x60 0 0) := by decide
theorem test_decode_eeread : decode [0x0C, 0x80, 0x00, 0x00, 0xBB] = .ok (.eeread 0x0C 0x80 0 0) := by decide

theorem test_decode_no_command : decode [0x00] = .error (.noSuchCommand 0x00) := by decide
theorem test_decode_immediate : decode [0x31] = .error (.immediateNotZero 0x31) := by decide
theorem test_decode_no_opcode : decode [0xFF, 0xEE, 0xDD, 0xCC, 0x55] = .error (.noSuchOpcode 0x55) := by decide
theorem test_decode_length : decode [0x30, 0x30] = .error (.badLength 2) := by decide
theorem test_table_command : decodeTableWord 8 0x16 = some (.pack 6) := by decide
theorem test_table_frame : decodeTableWord 40 0x1440123401 = some (.tune 0x14 0x40 0x12 0x34) := by decide

/-! ### Single steps -/

/-- A field of the next state. -/
def field {α : Type} (f : State → α) : Host.Outcome State Fault Refusal → Option α
  | .next t => some (f t)
  | .fault _ => none
  | .refused _ => none

/-- Right after reset with a transport that will answer `a`. -/
def answering (a : TxAnswer) : State := { State.reset with env := { Transport.fresh with tx := [a] } }

/-- The host wants one request; the transport will answer `ok`. -/
def asking (r : Request) : State := { answering .ok with host := { HostAgent.fresh with queue := [r] } }

/-- A built frame, the transport answering `a`. -/
def built (a : TxAnswer) : State :=
  { answering a with
    frame := ⟨0xFF, 0xEE, 0xDD, 0xCC, 0x55⟩
    status := { cause := .none, fvalid := true, fok := false, err := .none } }

/-- Reset with the operands of an ACC. -/
def operands (max min : Byte) (ms : Half) : State := { State.reset with maxlen := max, minlen := min, timeout := ms }

/-- An ACC for 5 bytes that waits with `off` bytes stored, the environment about to end the wait with `w` and to
deliver `r`. -/
def waiting (off : Byte) (w : WaitOutcome) (r : ReadAnswer) : State :=
  { operands 5 5 1000 with
    rstate := .wait, offset := off, timer := 1000
    env := { Transport.fresh with waits := [waitThatEnds w], reads := [r] } }

/-- The same ACC about to read. -/
def reading (off : Byte) (r : ReadAnswer) : State := { waiting off .ready r with rstate := .read }

/-- An ACC for task `k` has ended with `n` bytes; the buffer holds the answer of 95_test_vectors.md S11. -/
def ended (k : Task) (n : Byte) : State :=
  { State.reset with
    count := n
    buf := [(0, 0x14), (1, 0x40), (2, 0x12), (3, 0x34), (4, 0x08)]
    host := { HostAgent.fresh with task := some k } }

/- 95_test_vectors.md 2.1: the largest VALUE, 8 digits. -/
theorem test_pack_largest : field (fun t => t.bcd) (exec (.pack 8) { State.reset with value := 4294967295 }) =
    some ⟨0x94, 0x96, 0x72, 0x95⟩ := by decide
/- 2.1, the note: all four bytes are overwritten. -/
theorem test_pack_clears : field (fun t => t.bcd)
    (exec (.pack 2) { State.reset with value := 7, bcd := ⟨0xAA, 0xBB, 0xCC, 0xDD⟩ }) = some ⟨0x07, 0, 0, 0⟩ := by
  decide
/- 2.2: the largest result; a non-decimal byte. -/
theorem test_unpack_largest : field (fun t => t.value)
    (exec (.unpack 8) { State.reset with bcd := ⟨0xFF, 0xFF, 0xFF, 0xFF⟩ }) = some 166666665 := by decide
theorem test_unpack_hex : field (fun t => t.value)
    (exec (.unpack 2) { State.reset with bcd := ⟨0x1A, 0x99, 0, 0⟩ }) = some 20 := by decide
/- 2.5, steps 1, 2, 5, 15 and 6. -/
theorem test_build : field (fun t => (t.frame, statusByte t.status))
    (exec .build { State.reset with p := ⟨0xFF, 0xEE, 0xDD, 0xCC⟩, op := 0x55 }) =
    some (⟨0xFF, 0xEE, 0xDD, 0xCC, 0x55⟩, 0x08) := by decide
theorem test_check_before_build : field (fun t => statusByte t.status) (exec .check State.reset) = some 0x00 := by
  decide
theorem test_check_built : field (fun t => statusByte t.status)
    (exec .check { built .ok with p := ⟨0xFF, 0xEE, 0xDD, 0xCC⟩, op := 0x55 }) = some 0x18 := by decide
theorem test_send_before_build : field (fun t => (statusByte t.status, t.env.wire)) (exec .send (answering .ok)) =
    some (0x60, []) := by decide
theorem test_send_built : field (fun t => (statusByte t.status, wireBytes t.env)) (exec .send (built .ok)) =
    some (0x08, [0xFF, 0xEE, 0xDD, 0xCC, 0x55]) := by decide
/- 2.5, step 12, and 41_frame_codec.md R139. -/
theorem test_send_error : field (fun t => (statusByte t.status, wireBytes t.env)) (exec .send (built (.error 2))) =
    some (0x88, [0xFF, 0xEE]) := by decide
/- 2.6: 128, 0, 100, and the refused operands 129, 5, 100. -/
theorem test_acc_nothing_wanted : field (fun t => (statusByte t.status, t.count, t.rstate))
    (exec .acc (operands 128 0 100)) = some (0x01, 0, .idle) := by decide
theorem test_acc_refused : field (fun t => (statusByte t.status, t.count, t.rstate))
    (exec .acc (operands 129 5 100)) = some (0x40, 0, .idle) := by decide
/- 2.6, row by row: what each answer of the environment does. -/
theorem test_wait_timeout : field (fun t => (statusByte t.status, t.count)) (step (waiting 3 .timeout .error)) =
    some (0x02, 3) := by decide
theorem test_wait_hard_error : field (fun t => (statusByte t.status, t.count, t.offset))
    (step (waiting 2 .hardError .error)) = some (0xA4, 0, 2) := by decide
theorem test_read_last_bytes : field (fun t => (statusByte t.status, t.count, t.buf))
    (step (reading 3 (.bytes [0x34, 0x08]))) = some (0x01, 5, [(3, 0x34), (4, 0x08)]) := by decide
theorem test_read_closed : field (fun t => (statusByte t.status, t.count)) (step (reading 2 (.bytes []))) =
    some (0x03, 2) := by decide
theorem test_read_error : field (fun t => (statusByte t.status, t.count)) (step (reading 2 .error)) =
    some (0xA4, 0) := by decide
/- 20_memory.md R66: the bytes beyond the capacity stay waiting. -/
theorem test_read_surplus : field (fun t => (t.count, t.env.reads))
    (step (reading 4 (.bytes [0x08, 0x55, 0x66]))) = some (5, [.bytes [0x55, 0x66]]) := by decide
/- 42_response_accumulator.md R162: an event in the tick in which the timer reaches 0 wins. -/
theorem test_wait_last_tick :
    waitOutcome { elapsed := 100, hardError := false, ready := true, transient := true } 100 = .ready := by decide

/- The frames of 44_cat_commands.md R196 to R208. -/
theorem test_probe : field (fun t => (wireBytes t.env, t.maxlen, t.minlen, t.timeout, t.rstate))
    (exec (.probe 0 0 0 0) (answering .ok)) = some ([0, 0, 0, 0, 0xA7], 128, 9, 100, .wait) := by decide
theorem test_readfreq : field (fun t => (wireBytes t.env, t.maxlen, t.minlen, t.timeout, t.rstate))
    (exec (.readfreq 0 0 0 0) (answering .ok)) = some ([0, 0, 0, 0, 0x03], 5, 5, 1000, .wait) := by decide
theorem test_eeread : field (fun t => (wireBytes t.env, t.maxlen, t.minlen, t.timeout, t.rstate))
    (exec (.eeread 0x0C 0x80 0 0) (answering .ok)) = some ([0x0C, 0x80, 0, 0, 0xBB], 16, 2, 100, .wait) := by decide
theorem test_setmode : field (fun t => (wireBytes t.env, t.rstate)) (exec (.setmode 0x08 0 0 0) (answering .ok)) =
    some ([0x08, 0, 0, 0, 0x07], .idle) := by decide
theorem test_ctcssdcs : field (fun t => (wireBytes t.env, t.rstate)) (exec (.ctcssdcs 0x4A 0 0 0) (answering .ok)) =
    some ([0x4A, 0, 0, 0, 0x0A], .idle) := by decide
theorem test_rptdir : field (fun t => (wireBytes t.env, t.rstate)) (exec (.rptdir 0x89 0 0 0) (answering .ok)) =
    some ([0x89, 0, 0, 0, 0x09], .idle) := by decide
/- 44_cat_commands.md R197, R203, R205: 144.01234 MHz, 88.5 Hz, 600 kHz. -/
theorem test_tune : field (fun t => wireBytes t.env) (step (asking (.tune 144012340))) =
    some [0x14, 0x40, 0x12, 0x34, 0x01] := by decide
theorem test_ctcsstone : field (fun t => wireBytes t.env) (step (asking (.ctcssTone 885))) =
    some [0x08, 0x85, 0x00, 0x00, 0x0B] := by decide
theorem test_rptofs : field (fun t => wireBytes t.env) (step (asking (.rptOfs 600000))) =
    some [0x00, 0x60, 0x00, 0x00, 0xF9] := by decide
/- 95_test_vectors.md S11: 144.01234 MHz, FM. -/
theorem test_readfreq_decode : field (fun t => t.host.reports) (step (ended .readFreq 5)) =
    some [.frequency 144012340 0x08 true] := by decide
/- S10: 8 bytes of identity are fatal. -/
theorem test_probe_fatal : field (fun t => t.host.reports) (step (ended .probe 8)) = some [.probeFatal 8] := by
  decide
/- 44_cat_commands.md R212: a one-byte read stores the byte and a zero. -/
theorem test_dump_short : field (fun t => (t.host.image, t.host.queue)) (step (ended .dump 1)) =
    some ([0x14, 0x00], [.dumpNext]) := by decide
/- 2.8: bits 7:1 of CTRL are ignored; STATUS reads back; a write of CMD 0x13 is an illegal operand. -/
theorem test_wr_ctrl : field (fun t => t.ctrl) (step (asking (.wr 0x00 0xFF))) = some 0x01 := by decide
theorem test_rd_status : field (fun t => t.host.results) (step { asking (.rd 0x01) with
    status := { cause := .hardError, fvalid := true, fok := false, err := .rxError } }) = some [0xAC] := by decide
theorem test_wr_cmd : field (fun t => statusByte t.status) (step (asking (.wr 0x02 0x13))) = some 0x40 := by decide
/- 20_memory.md R72, 10_state.md R36. -/
theorem test_rdbuf_128 : field (fun t => t.count) (step (asking (.rdbuf 128))) = none := by decide
theorem test_rd_cmd : field (fun t => t.count) (step (asking (.rd 0x02))) = none := by decide
/- 70_reset_and_hazards.md R250: reset during a SEND leaves a prefix on the wire. -/
theorem test_reset_during_send : field (fun t => (statusByte t.status, wireBytes t.env))
    (step { built .ok with resetIn := [.within [.duringSend 3]], host := { HostAgent.fresh with queue := [.wr 0x02 0x50] } }) =
    some (0x00, [0xFF, 0xEE, 0xDD]) := by decide
/- How a program is placed (log 6): the next step runs the instruction. -/
theorem test_fetch_command : field (fun t => statusByte t.status) (step (State.reset.withFetchWord 8 0x30)) =
    some 0x08 := by decide
theorem test_fetch_frame : field (fun t => t.op) (step ((answering .ok).withFetchWord 40 0x0800000007)) =
    some 0x07 := by decide

/-! ### Witnesses: every statement with hypotheses has a state and operands that meet them, clause by clause -/

theorem witness_PackWritesDigitsOfValue :
    LegalDigits 2 ∧ LegalDigits 8 ∧ ¬ LegalDigits 0 ∧ ¬ LegalDigits 9 := by
  unfold LegalDigits; decide
theorem witness_PackTruncatesModuloTenToTheD : LegalDigits 2 ∧ LegalDigits 4 ∧ LegalDigits 6 ∧ LegalDigits 8 := by
  unfold LegalDigits; decide
theorem witness_UnpackWritesFieldValue : LegalDigits 2 ∧ LegalDigits 8 ∧ ¬ LegalDigits 1 ∧ ¬ LegalDigits 15 := by
  unfold LegalDigits; decide
theorem witness_UnpackStaysBelowItsBound :
    LegalDigits 2 ∧ ∀ k, k < (2 : Nibble).toNat / 2 →
      DecimalPair (quadGet { State.reset with bcd := ⟨0x99, 0xFF, 0, 0⟩ }.bcd k) := by
  unfold LegalDigits DecimalPair; decide
theorem witness_PackThenUnpackReturnsValue :
    LegalDigits 2 ∧ ({ State.reset with value := 99 } : State).value.toNat < 10 ^ (2 : Nibble).toNat := by
  unfold LegalDigits; decide
theorem witness_UnpackThenPackKeepsDecimalField :
    LegalDigits 8 ∧ (∀ k, k < (8 : Nibble).toNat / 2 →
      DecimalPair (quadGet { State.reset with bcd := ⟨0x14, 0x40, 0x12, 0x34⟩ }.bcd k)) ∧
    ({ State.reset with bcd := ⟨0x1A, 0, 0, 0⟩ } : State).bcd.b0 = 0x1A := by
  unfold LegalDigits DecimalPair; decide
theorem witness_CheckDetectsStaleFrame :
    field (fun t => (writeReg t 0x08 1).toOption.map (fun w => decide (w.p ≠ t.p))) (exec .build State.reset) =
      some (some true) ∧
    field (fun t => (writeReg t 0x0C 1).toOption.map (fun w => decide (w.op ≠ t.op))) (exec .build State.reset) =
      some (some true) := by decide
theorem witness_SendHandsFiveBytesToTransport :
    ((answering .ok).env.opened = true ∧ (answering .ok).status.fvalid = false) ∧
    ((built .ok).env.opened = true ∧ (built .ok).status.fvalid = true ∧ txAnswer (built .ok).env = .ok) ∧
    (built (.error 0)).status.fvalid = true ∧ txAnswer (built (.error 0)).env = .error 0 := by decide
theorem witness_FailedSendLeavesAPrefixOnTheWire :
    (built (.error 5)).env.opened = true ∧ (built (.error 5)).status.fvalid = true ∧
    txAnswer (built (.error 5)).env = .error 5 := by decide
theorem witness_UnopenedTransportIsRefused :
    ({ State.reset with env := { Transport.fresh with opened := false } } : State).env.opened = false := by decide
theorem witness_SilentFramesAreSent : WillSend (answering .ok) := by unfold WillSend; decide
theorem witness_AnsweredFramesAreSentAndAwaited : WillSend (built .ok) := by unfold WillSend; decide
theorem witness_WriteFailureEndsEveryOperation :
    (answering (.error 3)).env.opened = true ∧ txAnswer (answering (.error 3)).env = .error 3 := by decide
theorem witness_UndefinedOpcodeIsSentLikeAnyOther :
    Asks (asking (.frame ⟨0xFF, 0xEE, 0xDD, 0xCC, 0x55⟩)) (.frame ⟨0xFF, 0xEE, 0xDD, 0xCC, 0x55⟩) [] ∧
    (0x55 : Byte) ∉ nineOpcodes ∧ WillSend (asking (.frame ⟨0xFF, 0xEE, 0xDD, 0xCC, 0x55⟩)) := by
  unfold Asks WillSend; decide
theorem witness_TuneSendsFrequencyInTensOfHertz :
    Asks (asking (.tune 42949672959)) (.tune 42949672959) [] ∧ 42949672959 < 42949672960 ∧
    WillSend (asking (.tune 42949672959)) := by unfold Asks WillSend; decide
theorem witness_ToneAndOffsetSendFourDigits :
    (Asks (asking (.ctcssTone 4294967295)) (.ctcssTone 4294967295) [] ∧ 4294967295 < 2 ^ 32 ∧
      WillSend (asking (.ctcssTone 4294967295))) ∧
    (Asks (asking (.rptOfs 600000)) (.rptOfs 600000) [] ∧ 600000 / 10000 < 2 ^ 32 ∧
      WillSend (asking (.rptOfs 600000))) := by unfold Asks WillSend; decide
theorem witness_ReadFreqDecodesTheResponse :
    (ended .readFreq 4).resetIn = [] ∧ (ended .readFreq 4).rstate = .idle ∧
    (ended .readFreq 4).host.task = some .readFreq := by decide
theorem witness_ProbeAcceptsNineBytesOrMore :
    (ended .probe 8).resetIn = [] ∧ (ended .probe 8).rstate = .idle ∧ (ended .probe 8).host.task = some .probe ∧
    (ended .probe 8).count.toNat < 9 ∧ (ended .probe 9).host.task = some .probe ∧
    9 ≤ (ended .probe 9).count.toNat := by decide
theorem witness_EepromReadAndFlushOnlyReport :
    (ended (.eeRead 0x1924) 2).resetIn = [] ∧ (ended (.eeRead 0x1924) 2).rstate = .idle ∧
    (ended (.eeRead 0x1924) 2).host.task = some (.eeRead 0x1924) ∧
    (ended .flush 0).rstate = .idle ∧ (ended .flush 0).host.task = some .flush := by decide
theorem witness_FlushStartsAccumulateOnly : Asks (asking .flush) .flush [] ∧ (asking .flush).env.opened = true := by
  unfold Asks; decide
theorem witness_DumpStoresWhatWasRead :
    ((ended .dump 0).resetIn = [] ∧ (ended .dump 0).rstate = .idle ∧ (ended .dump 0).host.task = some .dump ∧
      (ended .dump 0).count.toNat = 0) ∧
    ((ended .dump 1).host.task = some .dump ∧ (ended .dump 1).count.toNat = 1) ∧
    ((ended .dump 2).host.task = some .dump ∧ 2 ≤ (ended .dump 2).count.toNat) := by decide
/-- A DUMP that has filled `n` bytes and asks for the next address. -/
def dumping (n : Nat) : State :=
  { asking .dumpNext with
    host := { HostAgent.fresh with queue := [.dumpNext], image := List.replicate n 0 } }
theorem dumping_image_length (n : Nat) : (dumping n).host.image.length = n := List.length_replicate
theorem witness_DumpReadsTheNextAddress :
    (Asks (dumping 0x1924) .dumpNext [] ∧ WillSend (dumping 0x1924) ∧ (dumping 0x1924).host.image.length ≤ 0x1925) ∧
    (Asks (dumping 0x1926) .dumpNext [] ∧ WillSend (dumping 0x1926) ∧
      0x1926 ≤ (dumping 0x1926).host.image.length) :=
  ⟨⟨⟨rfl, rfl, rfl, rfl⟩, ⟨rfl, rfl⟩, by rw [dumping_image_length]; omega⟩, ⟨rfl, rfl, rfl, rfl⟩, ⟨rfl, rfl⟩, by rw [dumping_image_length]⟩
theorem witness_AccStartsOrEndsAtOnce :
    (operands 129 0 0).env.opened = true ∧ 128 < (operands 129 0 0).maxlen.toNat ∧
    (operands 4 5 0).maxlen.toNat < (operands 4 5 0).minlen.toNat ∧
    ((operands 128 0 0).minlen.toNat ≤ (operands 128 0 0).maxlen.toNat ∧ (operands 128 0 0).maxlen.toNat ≤ 128 ∧
      (operands 128 0 0).minlen.toNat = 0) ∧
    (operands 128 128 0).minlen.toNat ≤ (operands 128 128 0).maxlen.toNat ∧
    (operands 128 128 0).maxlen.toNat ≤ 128 ∧ 0 < (operands 128 128 0).minlen.toNat := by decide
theorem witness_WaitOutcomesActAsStated :
    ∀ o ∈ [WaitOutcome.ready, .timeout, .transient, .hardError],
      (waiting 4 o .error).resetIn = [] ∧ (waiting 4 o .error).rstate = .wait ∧
      waitAnswer (waiting 4 o .error).env = waitThatEnds o ∧
      waitOutcome (waitThatEnds o) (waiting 4 o .error).timer = o := by decide
theorem witness_WaitOutcomeFollowsPriority :
    (100 ≤ (100 : Half).toNat ∧ (waitThatEnds .hardError).hardError = true ∧ (waitThatEnds .ready).ready = true ∧
      (waitThatEnds .ready).hardError = false ∧ (waitThatEnds .transient).transient = true ∧
      (waitThatEnds .transient).ready = false ∧ (waitThatEnds .transient).hardError = false) ∧
    (100 : Half).toNat < 101 ∧ (waitThatEnds .timeout).transient = false := by decide
theorem witness_TimerCountsDownAndStopsAtZero :
    waitOutcome (waitThatEnds .timeout) 0 = .timeout ∧ waitOutcome (waitThatEnds .ready) 0 ≠ .timeout := by decide
theorem witness_ReadAnswersActAsStated :
    (∀ r ∈ [ReadAnswer.error, .bytes [], .bytes [0x34], .bytes [0x34, 0x08]],
      Safety.Inv (reading 3 r) ∧ (reading 3 r).resetIn = [] ∧ (reading 3 r).rstate = .read ∧
      readAnswer 2 (reading 3 r).env = r) ∧
    (reading 3 .error).maxlen.toNat - (reading 3 .error).offset.toNat = 2 ∧
    (reading 3 .error).offset.toNat + 1 < (reading 3 .error).minlen.toNat ∧
    (reading 3 .error).minlen.toNat ≤ (reading 3 .error).offset.toNat + 2 := by decide
theorem witness_ReadsAreConsecutiveBytes :
    (reading 3 (.bytes [1, 2, 3])).env.reads ≠ [] ∧
    readAnswer 2 (reading 3 (.bytes [1, 2, 3])).env = .bytes [1, 2] := by decide
/-- An ACC is asked for; the environment will answer `ready`, `AB CD`, `transient`, `ready`, `EF 01 02`. -/
def accumulating : State :=
  { operands 5 5 1000 with
    env := { Transport.fresh with
      waits := [waitThatEnds .ready, waitThatEnds .transient, waitThatEnds .ready]
      reads := [.bytes [0xAB, 0xCD], .bytes [0xEF, 0x01, 0x02]] }
    host := { HostAgent.fresh with queue := [.wr 0x02 0x60] } }
/-- The same answers in the order asked. -/
def answersGiven : List AccAnswer :=
  [.wait .ready, .read (.bytes [0xAB, 0xCD]), .wait .transient, .wait .ready, .read (.bytes [0xEF, 0x01, 0x02])]
theorem witness_AccRefinesBigStep :
    Asks accumulating (.wr 0x02 0x60) [] ∧ accumulating.env.opened = true ∧
    accumulating.minlen.toNat ≤ accumulating.maxlen.toNat ∧ accumulating.maxlen.toNat ≤ 128 ∧
    accumulating.env.waits = waitsOf answersGiven ++ [] ∧ accumulating.env.reads = readsOf answersGiven ++ [] ∧
    accRun accumulating.maxlen.toNat accumulating.minlen.toNat 0 (readBuf accumulating) answersGiven =
      some (.minReached, 5, patched (patched (readBuf accumulating) 0 [0xAB, 0xCD]) 2 [0xEF, 0x01, 0x02]) :=
  ⟨⟨rfl, rfl, rfl, rfl⟩, rfl, by decide, by decide, rfl, rfl, rfl⟩
theorem witness_AccEndsWithoutTransients :
    Safety.Inv (waiting 4 .ready .error) ∧ (waiting 4 .ready .error).resetIn = [] ∧
    (waiting 4 .ready .error).rstate ≠ .idle ∧
    (waiting 4 .ready .error).minlen.toNat - (waiting 4 .ready .error).offset.toNat ≤
      (waiting 4 .ready .error).env.waits.length ∧
    NeverTransient (waiting 4 .ready .error).env.waits := by unfold NeverTransient; decide
theorem witness_TransientsKeepAccWaiting :
    (waiting 4 .transient .error).resetIn = [] ∧ (waiting 4 .transient .error).rstate = .wait ∧
    (waiting 4 .transient .error).env.waits = List.replicate 1 (waitThatEnds .transient) ++ [] := by decide
theorem witness_CountAtEndFitsCause :
    (∀ s ∈ [waiting 4 .timeout .error, waiting 4 .hardError .error, reading 4 (.bytes []),
        reading 4 (.bytes [1]), reading 4 .error],
      Safety.Inv s ∧ s.resetIn = [] ∧ s.rstate ≠ .idle ∧ field (fun t => t.rstate) (step s) = some .idle) := by decide
theorem witness_AccIsIndependentOfOtherUnits :
    (waiting 4 .ready .error).resetIn = [] ∧ (waiting 4 .ready .error).rstate ≠ .idle := by decide
theorem witness_RdReturnsTheRegister :
    (Asks (asking (.rd 0x15)) (.rd 0x15) [] ∧ regValue (asking (.rd 0x15)) (0x15 : Byte).toNat = some 0) ∧
    (Asks (asking (.rd 0x02)) (.rd 0x02) [] ∧ regValue (asking (.rd 0x02)) (0x02 : Byte).toNat = none) ∧
    regValue (asking (.rd 0x16)) (0x16 : Byte).toNat = none := by unfold Asks; decide
theorem witness_WrStoresTheValue :
    (Asks (asking (.wr 0x00 0xFF)) (.wr 0x00 0xFF) [] ∧ writableWidth (0x00 : Byte).toNat = some 8 ∧
      (0xFF : Word).toNat < 2 ^ 8) ∧
    (Asks (asking (.wr 0x03 0xFFFFFFFF)) (.wr 0x03 0xFFFFFFFF) [] ∧ writableWidth (0x03 : Byte).toNat = some 32) ∧
    (Asks (asking (.wr 0x0F 0xFFFF)) (.wr 0x0F 0xFFFF) [] ∧ writableWidth (0x0F : Byte).toNat = some 16 ∧
      (0xFFFF : Word).toNat < 2 ^ 16) := by unfold Asks; decide
theorem witness_ReservedWritesAreRefused :
    Asks (asking (.wr 0x01 0)) (.wr 0x01 0) [] ∧ Asks (asking (.wr 0x10 1)) (.wr 0x10 1) [] ∧
    Asks (asking (.wr 0x15 1)) (.wr 0x15 1) [] ∧ Asks (asking (.wr 0x16 0)) (.wr 0x16 0) [] := by
  unfold Asks; decide
theorem witness_RdbufReturnsTheCell :
    Asks (asking (.rdbuf 127)) (.rdbuf 127) [] ∧ Asks (asking (.rdbuf 128)) (.rdbuf 128) [] := by
  unfold Asks; decide
theorem witness_HostIsBlockedDuringAcc :
    (reading 4 .error).resetIn = [] ∧ (reading 4 .error).rstate ≠ .idle := by decide
theorem witness_FvalidIsClearedOnlyByReset :
    (built .ok).resetIn = [] ∧ (built .ok).status.fvalid = true ∧
    field (fun t => t.resets) (step (built .ok)) = some 0 := by decide
theorem witness_OnlyReadStepsChangeTheBuffer :
    (ended .dump 2).resetIn = [] ∧ (ended .dump 2).rstate ≠ .read ∧
    field (fun t => t.buf.length) (step (ended .dump 2)) = some 5 := by decide
theorem witness_EveryCommandByteIsClassified :
    (∀ c ∈ [(0x00 : Byte), 0x0F, 0x12, 0x1F, 0x22, 0x2F, 0x30, 0x31, 0x40, 0x50, 0x60, 0x6F, 0x70, 0xFF],
      (asking (.wr 0x02 (c.setWidth 32))).resetIn = [] ∧ (asking (.wr 0x02 (c.setWidth 32))).rstate = .idle ∧
      (asking (.wr 0x02 (c.setWidth 32))).host.task = none ∧
      (asking (.wr 0x02 (c.setWidth 32))).host.queue = [.wr 0x02 (c.setWidth 32)]) := by decide
theorem witness_StepRunsTheDecodedInstruction :
    (Asks (asking (.wr 0x02 ((0x30 : Byte).setWidth 32))) (.wr 0x02 ((0x30 : Byte).setWidth 32)) [] ∧
      decode [0x30] = .ok .build) ∧
    (Asks (asking (.frame ⟨0x08, 0, 0, 0, 0x07⟩)) (.frame ⟨0x08, 0, 0, 0, 0x07⟩) [] ∧
      decode [0x08, 0, 0, 0, 0x07] = .ok (.setmode 0x08 0 0 0)) := by unfold Asks; decide
theorem witness_ResetInputThatIsOffChangesNothing :
    ({ built .ok with resetIn := [.off, .on] } : State).resetIn = .off :: [.on] := by decide
theorem witness_ResetRestoresEveryRegister :
    ({ built .ok with resetIn := [.on] } : State).resetIn = .on :: [] := by decide
/-- A built frame whose SEND the reset input will cut short after three bytes. -/
def cutShort : State :=
  { built .ok with
    resetIn := [.within [.duringSend 3]], host := { HostAgent.fresh with queue := [.wr 0x02 0x50] } }
theorem witness_ResetDuringSendLeavesAPrefix :
    cutShort.resetIn = .within [.duringSend 3] :: [] ∧ cutShort.rstate = .idle ∧ cutShort.host.task = none ∧
    cutShort.host.queue = .wr 0x02 0x50 :: [] ∧ cutShort.env.opened = true ∧ cutShort.status.fvalid = true := by
  decide
theorem witness_LevelsThatStayLowChangeNothing :
    ({ asking (.frame ⟨0x08, 0, 0, 0, 0x07⟩) with resetIn := [.within [.low, .low]] } : State).resetIn =
      .within [.low, .low] :: [] ∧ ∀ l ∈ [Level.low, .low], l = .low := by decide
/-- A frame whose reset input is asserted after `k` of its accesses. -/
def interrupted (k : Nat) : State :=
  { asking (.frame ⟨0xFF, 0xEE, 0xDD, 0xCC, 0x55⟩) with resetIn := [.within (List.replicate k .low ++ [.high])] }
theorem witness_ResetBetweenAccessesOfAFrame :
    (0x55 : Byte) ∉ [(0xA7 : Byte), 0x03, 0xBB] ∧ ∀ k ∈ [0, 5, 6, 7], k < 8 ∧
      (interrupted k).resetIn = .within (List.replicate k .low ++ [.high]) :: [] ∧ (interrupted k).rstate = .idle ∧
      (interrupted k).host.task = none ∧
      (interrupted k).host.queue = .frame ⟨0xFF, 0xEE, 0xDD, 0xCC, 0x55⟩ :: [] ∧ WillSend (interrupted k) := by
  unfold WillSend; decide
/- R250 with 44_cat_commands.md R192: the bytes written before the reset are zero in the frame sent. -/
theorem test_reset_after_two_accesses : field (fun t => wireBytes t.env) (step (interrupted 2)) =
    some [0x00, 0x00, 0xDD, 0xCC, 0x55] := by decide
/-- A handshake whose reset input is asserted between the host's first two reads. -/
def probeInterrupted : State := { ended .probe 9 with resetIn := [.within [.low, .high]] }
theorem witness_ResetBetweenReadsOfTheHost :
    probeInterrupted.resetIn = .within [.low, .high] :: [] ∧ probeInterrupted.rstate = .idle ∧
    probeInterrupted.host.task = some .probe ∧ 9 ≤ probeInterrupted.count.toNat := by decide
theorem witness_EveryStepKeepsTheInvariant :
    Safety.Inv (waiting 4 .ready (.bytes [0x08])) ∧
    field (fun t => t.rstate) (step (waiting 4 .ready (.bytes [0x08]))) = some .read := by decide
theorem witness_SoundStatesNeverFault : Safety.Inv (reading 4 (.bytes [0x08])) := by decide
theorem witness_TraceHasNoProtocolEffect :
    hideTrace (built .ok) = hideTrace { built .ok with ctrl := 1, trace := [.sent 0xFF] } ∧
    built .ok ≠ { built .ok with ctrl := 1, trace := [.sent 0xFF] } := by decide

end Sys2Proof.Tests
end

