-- ==== Sys2Proof/Proofs/HostAccess.lean ====
section
/-! SUPPORT. What the host can do to the block: the accesses that end in their own step, the sequences made of them, and
the rule by which a property kept by each of them is kept by every step the host makes. -/

namespace Sys2Proof.Machine

/-- The writes and the commands that end in their own step, SEND and ACC apart, as functions of the state
(43_host_access.md R182, R186). `stored` is a write to CMD, which holds nothing. -/
inductive HostAccess : (State → State) → Prop
  | stored : HostAccess id
  | ctrl (b : Byte) : HostAccess (setCtrl b)
  | value (v : Word) : HostAccess (wrValue v)
  | bcd (k : Nat) (b : Byte) : HostAccess (wrBcd k b)
  | p (k : Nat) (b : Byte) : HostAccess (wrP k b)
  | op (b : Byte) : HostAccess (wrOp b)
  | maxlen (b : Byte) : HostAccess (wrMaxlen b)
  | minlen (b : Byte) : HostAccess (wrMinlen b)
  | timeout (h : Half) : HostAccess (wrTimeout h)
  | pack (d : Nibble) : HostAccess (packOp d)
  | unpack (d : Nibble) : HostAccess (unpackOp d)
  | build : HostAccess buildOp
  | check : HostAccess checkOp
  | raise (c : ErrCode) : HostAccess (raise c)

/-- The reads of one byte in the host's sequences (43_host_access.md R181, R183). -/
inductive HostRead : (State → Byte) → Prop
  | status : HostRead fun s => statusByte s.status
  | count : HostRead fun s => s.count
  | bcd0 : HostRead fun s => s.bcd.b0
  | bcd1 : HostRead fun s => s.bcd.b1
  | bcd2 : HostRead fun s => s.bcd.b2
  | bcd3 : HostRead fun s => s.bcd.b3
  | cell (i : Nat) : HostRead fun s => readBuf s i

/-- The conclusions the host draws at the end of its sequences (44_cat_commands.md R192 to R212). -/
inductive HostClosing : (HostAgent → HostAgent) → Prop
  | silent : HostClosing id
  | note (r : Report) : HostClosing (noteReport r)
  | dump (c b0 b1 : Byte) : HostClosing (dumpClosing c b0 b1)

/-- The script is made of the accesses, reads and conclusions above, whatever its reads return. -/
def MadeOfAccesses : Script → Prop
  | .done closing => HostClosing closing
  | .acc _ => True
  | .access work next => HostAccess work ∧ MadeOfAccesses next
  | .send next => MadeOfAccesses next
  | .rdByte get next => HostRead get ∧ ∀ b, MadeOfAccesses (next b)
  | .rdValue next => ∀ v, MadeOfAccesses (next v)

/-! ### One access -/

/-- A write of an 8-bit register is refused in every state, or makes the same access in every state. -/
theorem write8_uniform (num : Byte) (v : Word) (put : Byte → State → State) (h : ∀ b, HostAccess (put b)) :
    (∃ e, ∀ s, write8 num v (fun b => put b s) = .error e) ∨
      ∃ w, HostAccess w ∧ ∀ s, write8 num v (fun b => put b s) = .ok (w s) := by
  by_cases hv : v.toNat < 2 ^ 8
  · exact .inr ⟨_, h (v.setWidth 8), fun s => if_pos hv⟩
  · exact .inl ⟨_, fun s => if_neg hv⟩

/-- A write of a 16-bit register is refused in every state, or makes the same access in every state. -/
theorem write16_uniform (num : Byte) (v : Word) (put : Half → State → State) (h : ∀ b, HostAccess (put b)) :
    (∃ e, ∀ s, write16 num v (fun b => put b s) = .error e) ∨
      ∃ w, HostAccess w ∧ ∀ s, write16 num v (fun b => put b s) = .ok (w s) := by
  by_cases hv : v.toNat < 2 ^ 16
  · exact .inr ⟨_, h (v.setWidth 16), fun s => if_pos hv⟩
  · exact .inl ⟨_, fun s => if_neg hv⟩

/-- WR is refused in every state, or makes the same access in every state (43_host_access.md R182). -/
theorem writeReg_uniform (num : Byte) (v : Word) :
    (∃ e, ∀ s, writeReg s num v = .error e) ∨
      ∃ w, HostAccess w ∧ ∀ s, writeReg s num v = .ok (w s) := by
  unfold writeReg
  generalize num.toNat = n
  match n with
  | 0x00 => exact write8_uniform num v setCtrl .ctrl
  | 0x02 => exact write8_uniform num v (fun _ => id) fun _ => .stored
  | 0x03 => exact .inr ⟨_, .value v, fun _ => rfl⟩
  | 0x04 => exact write8_uniform num v (wrBcd 0) (.bcd 0)
  | 0x05 => exact write8_uniform num v (wrBcd 1) (.bcd 1)
  | 0x06 => exact write8_uniform num v (wrBcd 2) (.bcd 2)
  | 0x07 => exact write8_uniform num v (wrBcd 3) (.bcd 3)
  | 0x08 => exact write8_uniform num v (wrP 0) (.p 0)
  | 0x09 => exact write8_uniform num v (wrP 1) (.p 1)
  | 0x0A => exact write8_uniform num v (wrP 2) (.p 2)
  | 0x0B => exact write8_uniform num v (wrP 3) (.p 3)
  | 0x0C => exact write8_uniform num v wrOp .op
  | 0x0D => exact write8_uniform num v wrMaxlen .maxlen
  | 0x0E => exact write8_uniform num v wrMinlen .minlen
  | 0x0F => exact write16_uniform num v wrTimeout .timeout
  | 0x01 | 0x10 | 0x11 | 0x12 | 0x13 | 0x14 | 0x15 | _ + 0x16 => exact .inl ⟨_, fun _ => rfl⟩

/-- RD is refused in every state alike, or returns a value in every state (43_host_access.md R181). -/
theorem readReg_uniform (num : Byte) :
    (∃ e, ∀ s, readReg s num = .error e) ∨ ∀ s, ∃ v, readReg s num = .ok v := by
  unfold readReg
  generalize num.toNat = n
  match n with
  | 0x00 | 0x01 | 0x03 | 0x04 | 0x05 | 0x06 | 0x07 | 0x08 | 0x09 | 0x0A | 0x0B | 0x0C | 0x0D | 0x0E | 0x0F
  | 0x10 | 0x11 | 0x12 | 0x13 | 0x14 | 0x15 => exact .inr fun _ => ⟨_, rfl⟩
  | 0x02 | _ + 0x16 => exact .inl ⟨_, fun _ => rfl⟩

/-- What a byte written to CMD can decode to (30_encoding.md R83). -/
theorem decode_byte_cases (c : Byte) :
    (∃ e, decode [c] = .error e) ∨ (∃ d, decode [c] = .ok (.pack d)) ∨ (∃ d, decode [c] = .ok (.unpack d)) ∨
      decode [c] = .ok .build ∨ decode [c] = .ok .check ∨ decode [c] = .ok .send ∨ decode [c] = .ok .acc := by
  simp only [decode, decodeCommand, bareCommand]
  split
  case h_1 | h_2 | h_7 => simp
  all_goals split <;> simp

/-- A command makes the same access in every state, or is SEND or ACC (43_host_access.md R186). -/
theorem runCommand_uniform (c : Byte) :
    (∃ w, HostAccess w ∧ ∀ s, runCommand c s = .next (w s)) ∨
      (∀ s, runCommand c s = withTransport s sendOp) ∨ (∀ s, runCommand c s = withTransport s accStart) := by
  unfold runCommand
  rcases decode_byte_cases c with ⟨e, h⟩ | ⟨d, h⟩ | ⟨d, h⟩ | h | h | h | h <;> rw [h]
  · exact .inl ⟨_, .raise .illegalCommand, fun _ => rfl⟩
  · by_cases hd : digitsLegal d = true
    · exact .inl ⟨_, .pack d, fun s => congrArg _ (if_pos hd)⟩
    · exact .inl ⟨_, .raise .illegalOperand, fun s => congrArg _ (if_neg hd)⟩
  · by_cases hd : digitsLegal d = true
    · exact .inl ⟨_, .unpack d, fun s => congrArg _ (if_pos hd)⟩
    · exact .inl ⟨_, .raise .illegalOperand, fun s => congrArg _ (if_neg hd)⟩
  · exact .inl ⟨_, .build, fun _ => rfl⟩
  · exact .inl ⟨_, .check, fun _ => rfl⟩
  · exact .inr (.inl fun _ => rfl)
  · exact .inr (.inr fun _ => rfl)

/-! ### The host's sequences -/

theorem madeOfAccesses_recv (r : Response) : MadeOfAccesses (recv r) :=
  ⟨.maxlen _, .minlen _, .timeout _, trivial⟩

theorem madeOfAccesses_afterStatus (f : Frame) (resp : Option Response) (b : Byte) :
    MadeOfAccesses (afterStatus f resp b) := by
  unfold afterStatus
  split
  · exact .note _
  · cases resp with
    | none => exact .note _
    | some r => exact madeOfAccesses_recv r

theorem madeOfAccesses_catScript (f : Frame) (resp : Option Response) : MadeOfAccesses (catScript f resp) :=
  ⟨.p 0 _, .p 1 _, .p 2 _, .p 3 _, .op _, .build, .status, madeOfAccesses_afterStatus f resp⟩

theorem madeOfAccesses_numberScript (d : Nibble) (v : Nat) (opc : Byte) : MadeOfAccesses (numberScript d v opc) :=
  ⟨.value _, .pack d, .bcd0, fun _ => ⟨.bcd1, fun _ => ⟨.bcd2, fun _ => ⟨.bcd3, fun _ =>
    madeOfAccesses_catScript _ _⟩⟩⟩⟩

theorem madeOfAccesses_recvEnd (next : Byte → Script) (h : ∀ c, MadeOfAccesses (next c)) :
    MadeOfAccesses (recvEnd next) :=
  ⟨.count, fun c => ⟨.status, fun _ => h c⟩⟩

theorem madeOfAccesses_rdbufs (indices : List Nat) (next : List Byte → Script)
    (h : ∀ bs, MadeOfAccesses (next bs)) : MadeOfAccesses (rdbufs indices next) := by
  induction indices generalizing next with
  | nil => exact h []
  | cons i rest ih => exact ⟨.cell i, fun b => ih _ fun bs => h (b :: bs)⟩

/-- What the host does when its ACC has ended is made of accesses (44_cat_commands.md R196 to R212). -/
theorem madeOfAccesses_taskScript (k : Task) : MadeOfAccesses (taskScript k) := by
  cases k with
  | probe =>
    refine madeOfAccesses_recvEnd _ fun c => ?_
    split
    · exact .note _
    · exact madeOfAccesses_rdbufs _ _ fun _ => .note _
  | readFreq =>
    exact madeOfAccesses_recvEnd _ fun c => ⟨.cell 0, fun _ => ⟨.cell 1, fun _ => ⟨.cell 2, fun _ => ⟨.cell 3, fun _ =>
      ⟨.cell 4, fun _ => ⟨.bcd 0 _, .bcd 1 _, .bcd 2 _, .bcd 3 _, .unpack 8, fun _ => .note _⟩⟩⟩⟩⟩⟩
  | eeRead a => exact madeOfAccesses_recvEnd _ fun c => ⟨.cell 0, fun _ => ⟨.cell 1, fun _ => .note _⟩⟩
  | flush => exact madeOfAccesses_recvEnd _ fun _ => .note _
  | dump => exact madeOfAccesses_recvEnd _ fun c => ⟨.cell 0, fun _ => ⟨.cell 1, fun _ => .dump c _ _⟩⟩

/-- The marker of a DUMP is the host's alone. -/
theorem dumpMark_host (s : State) : ∃ h, dumpMark s = { s with host := h } := ⟨_, dumpMark_eq s⟩

theorem numberSequence_some {d : Nibble} {v : Nat} {opc : Byte} {s t : State} {sc : Script}
    (h : numberSequence d v opc s = some (sc, t)) : MadeOfAccesses sc ∧ ∃ a, t = { s with host := a } := by
  unfold numberSequence at h
  split at h <;> cases h
  exact ⟨madeOfAccesses_numberScript d v opc, s.host, rfl⟩

theorem dumpSequence_some {s t : State} {sc : Script} (h : dumpSequence s = some (sc, t)) :
    MadeOfAccesses sc ∧ ∃ a, t = { s with host := a } := by
  unfold dumpSequence at h
  split at h <;> cases h
  exact ⟨madeOfAccesses_catScript _ _, dumpMark_host s⟩

/-- The sequence of a request is made of accesses and starts from the block as it is. -/
theorem sequenceOf_some {r : Request} {s t : State} {sc : Script} (h : sequenceOf r s = some (sc, t)) :
    MadeOfAccesses sc ∧ ∃ a, t = { s with host := a } := by
  cases r with
  | rd num => cases h
  | rdbuf i => cases h
  | wr num v =>
    simp only [sequenceOf] at h
    split at h <;> cases h
    exact ⟨.silent, s.host, rfl⟩
  | frame f => cases h; exact ⟨madeOfAccesses_catScript f _, s.host, rfl⟩
  | tune f => exact numberSequence_some h
  | ctcssTone n => exact numberSequence_some h
  | rptOfs n => exact numberSequence_some h
  | flush => cases h; exact ⟨madeOfAccesses_recv _, s.host, rfl⟩
  | dump =>
    obtain ⟨hm, a, ht⟩ := dumpSequence_some h
    exact ⟨hm, a, ht⟩
  | dumpNext => exact dumpSequence_some h

/-- The sequence of a step is made of accesses and starts from the idle block as it is. -/
theorem stepSequence_some {s t : State} {sc : Script} (h : stepSequence s = some (sc, t)) :
    s.rstate = .idle ∧ MadeOfAccesses sc ∧ ∃ a, t = { s with host := a } := by
  unfold stepSequence at h
  split at h
  case h_1 | h_2 => cases h
  case h_3 hr =>
    refine ⟨hr, ?_⟩
    split at h
    case h_1 k _ => cases h; exact ⟨madeOfAccesses_taskScript k, _, rfl⟩
    case h_2 =>
      split at h
      case h_1 => cases h
      case h_2 r _ _ =>
        split at h
        · obtain ⟨hm, a, ht⟩ := sequenceOf_some h
          exact ⟨hm, a, ht⟩
        · cases h

/-! ### What every act of the host keeps -/

/-- Every act of the host keeps `P`, up to the end of a sequence or the start of an ACC, where it may turn into `Q`. -/
structure KeptByHost (P Q : State → Prop) : Prop where
  access : ∀ w, HostAccess w → ∀ s, P s → P (w s)
  send : ∀ s, P s → P (sendOp s)
  host : ∀ s h, P s → P { s with host := h }
  done : ∀ s, P s → Q s
  acc : ∀ s, P s → Q (accStart s)

/-- A property every access keeps is kept by every write and command of a host sequence. -/
theorem keeps_of_madeOfAccesses {P : State → Prop} (hP : ∀ w, HostAccess w → ∀ s, P s → P (w s)) (sc : Script)
    (hm : MadeOfAccesses sc) : Keeps P sc := by
  induction sc with
  | done closing => trivial
  | acc k => trivial
  | access work next ih => exact ⟨hP work hm.1, ih hm.2⟩
  | send next ih => exact ih hm
  | rdByte get next ih => exact fun b => ih b (hm.2 b)
  | rdValue next ih => exact fun v => ih v (hm v)

variable {P Q : State → Prop}

/-- A host sequence without a reset. -/
theorem KeptByHost.runScript (hk : KeptByHost P Q) (sc : Script) (hm : MadeOfAccesses sc) (s : State) (hs : P s) :
    Q (runScript sc s) := by
  induction sc generalizing s with
  | done closing => exact hk.done _ (hk.host s _ hs)
  | acc k => exact hk.acc _ (hk.host s _ hs)
  | access work next ih => exact ih hm.2 _ (hk.access work hm.1 s hs)
  | send next ih => exact ih hm _ (hk.send s hs)
  | rdByte get next ih => exact ih _ (hm.2 _) _ (hk.host s _ hs)
  | rdValue next ih => exact ih _ (hm _) _ (hk.host s _ hs)

/-- A host sequence with the reset input sampled at every access. -/
theorem KeptByHost.runScriptWith (hk : KeptByHost P Q) (hreset : ∀ s, P s → P (resetBlock s))
    (hcut : ∀ n s, P s → P (sendCutByReset n s)) (ls : List Level) (sc : Script) (hm : MadeOfAccesses sc) (s : State)
    (hs : P s) : Q (runScriptWith ls sc s) :=
  runScriptWith_keeps P Q hreset hk.send hcut hk.host hk.done hk.acc sc
    (keeps_of_madeOfAccesses hk.access sc hm) ls s hs

theorem KeptByHost.runCommand (hk : KeptByHost P Q) (c : Byte) {s t : State} (hs : P s)
    (h : runCommand c s = .next t) : Q t := by
  rcases runCommand_uniform c with ⟨w, hw, hc⟩ | hc | hc <;> rw [hc] at h
  · cases h; exact hk.done _ (hk.access w hw s hs)
  · obtain ⟨-, rfl⟩ := withTransport_next _ _ _ h; exact hk.done _ (hk.send s hs)
  · obtain ⟨-, rfl⟩ := withTransport_next _ _ _ h; exact hk.acc s hs

theorem KeptByHost.runNumber (hk : KeptByHost P Q) (d : Nibble) (v : Nat) (opc : Byte) {s t : State} (hs : P s)
    (h : runNumber d v opc s = .next t) : Q t := by
  unfold Machine.runNumber at h
  split at h
  case h_1 sc u hq =>
    obtain ⟨hm, a, rfl⟩ := numberSequence_some hq
    obtain ⟨-, rfl⟩ := withTransport_next _ _ _ h
    exact hk.runScript sc hm _ (hk.host s a hs)
  case h_2 => cases h

theorem KeptByHost.runDump (hk : KeptByHost P Q) {s t : State} (hs : P s) (h : runDump s = .next t) : Q t := by
  unfold Machine.runDump at h
  split at h
  case h_1 sc u hq =>
    obtain ⟨hm, a, rfl⟩ := dumpSequence_some hq
    obtain ⟨-, rfl⟩ := withTransport_next _ _ _ h
    exact hk.runScript sc hm _ (hk.host s a hs)
  case h_2 => cases h; exact hk.done _ (hk.host s _ hs)

theorem KeptByHost.runRequest (hk : KeptByHost P Q) (r : Request) {s t : State} (hs : P s)
    (h : runRequest r s = .next t) : Q t := by
  cases r with
  | rd num =>
    rw [Machine.runRequest] at h
    split at h <;> cases h
    exact hk.done _ (hk.host s _ hs)
  | wr num v =>
    rw [Machine.runRequest] at h
    rcases writeReg_uniform num v with ⟨e, hw⟩ | ⟨w, ha, hw⟩ <;> simp only [hw] at h
    · cases h
    · split at h
      · exact hk.runCommand _ (hk.access w ha s hs) h
      · cases h; exact hk.done _ (hk.access w ha s hs)
  | rdbuf i =>
    rw [Machine.runRequest] at h
    split at h <;> cases h
    exact hk.done _ (hk.host s _ hs)
  | frame f =>
    rw [Machine.runRequest, runFrame_eq] at h
    obtain ⟨-, rfl⟩ := withTransport_next _ _ _ h
    exact hk.runScript _ (madeOfAccesses_catScript f _) s hs
  | tune n => exact hk.runNumber _ _ _ hs h
  | ctcssTone n => exact hk.runNumber _ _ _ hs h
  | rptOfs n => exact hk.runNumber _ _ _ hs h
  | flush =>
    obtain ⟨-, rfl⟩ := withTransport_next _ _ _ h
    exact hk.runScript _ (madeOfAccesses_recv _) s hs
  | dump => exact hk.runDump (s := dumpClear s) (hk.host s _ hs) h
  | dumpNext => exact hk.runDump hs h

/-- A step in which no ACC runs and no reset falls is the host's. -/
theorem KeptByHost.advanceLive (hk : KeptByHost P Q) {s t : State} (hidle : s.rstate = .idle) (hs : P s)
    (h : advanceLive s = .next t) : Q t := by
  rcases advanceLive_cases s t h with ⟨hw, -⟩ | ⟨hr, -⟩ | ⟨k, -, -, rfl⟩ | ⟨-, -, -, rfl⟩ | ⟨r, rest, -, -, -, hreq⟩
  · rw [hidle] at hw; cases hw
  · rw [hidle] at hr; cases hr
  · exact hk.runScript _ (madeOfAccesses_taskScript k) _ (hk.host s _ hs)
  · exact hk.done _ hs
  · exact hk.runRequest r (hk.host s _ hs) hreq

end Sys2Proof.Machine
end

