-- ==== Sys2Proof/Proofs/Invariant.lean ====
section
/-! The invariant of the machine holds at reset and every step keeps it (10_state.md R24, R33 to R35, R46). -/

namespace Sys2Proof.Safety

open Sys2Proof.Machine

/-- The parts of the invariant that do not speak of a running ACC. -/
def BlockSound (s : State) : Prop := ctrlClean s ∧ bufSound s ∧ countSound s ∧ fokSound s ∧ frameSound s

/-- The block is sound and no ACC runs: what every access of the host finds and leaves (43_host_access.md R184). -/
def IdleSound (s : State) : Prop := s.rstate = .idle ∧ BlockSound s

theorem inv_iff (s : State) : Inv s ↔ BlockSound s ∧ accSound s ∧ timerSound s := by
  simp only [BlockSound]
  tauto

/-- Settles O55: every field the invariant speaks of has its reset value. -/
theorem invariantHoldsAtReset : Obligations.InvariantHoldsAtReset :=
  ⟨rfl, ⟨Memory.reset_wf, rfl⟩, fun h => absurd rfl h, fun _ => rfl, ⟨Nat.zero_le _, fun _ => rfl, fun _ => rfl⟩, id,
    fun _ => rfl⟩

/-- A reset at any moment leaves a sound block: the invariant speaks of no field that reset keeps. -/
theorem inv_resetBlock (s : State) : Inv (resetBlock s) := invariantHoldsAtReset

theorem IdleSound.inv {s : State} (h : IdleSound s) : Inv s :=
  (inv_iff s).2 ⟨h.2, fun hr => absurd h.1 hr, fun hw => by rw [h.1] at hw; cases hw⟩

theorem idleSound_of_inv {s : State} (hi : Inv s) (hr : s.rstate = .idle) : IdleSound s :=
  ⟨hr, ((inv_iff s).1 hi).1⟩

theorem idleSound_resetBlock (s : State) : IdleSound (resetBlock s) := idleSound_of_inv (inv_resetBlock s) rfl

/-! ### The accumulator -/

/-- An ACC that ends leaves `COUNT` within `BUF` and a cause (42_response_accumulator.md R158). -/
theorem inv_finish {s : State} (c : Cause) (hc : c ≠ .none) (hb : BlockSound s) (ho : s.offset.toNat ≤ 128) :
    Inv (finish c s) := by
  obtain ⟨hctrl, hbuf, -, hfok, hframe⟩ := hb
  refine IdleSound.inv ⟨rfl, hctrl, hbuf, ⟨?_, fun h => absurd h hc, fun h => if_pos h⟩, hfok, hframe⟩
  simp only [finish]
  split
  · exact Nat.zero_le _
  · exact ho

/-- Entry to WAIT loads the timer with the full deadline (42_response_accumulator.md R160). -/
theorem inv_enterWait {s : State} (hb : BlockSound s) (hlt : s.offset < s.minlen) (hle : s.minlen ≤ s.maxlen)
    (hcap : s.maxlen.toNat ≤ 128) : Inv (enterWait s) :=
  (inv_iff _).2 ⟨hb, fun _ => ⟨hlt, hle, hcap⟩, fun _ => rfl⟩

/-- The loop test ends the ACC or waits with room left (42_response_accumulator.md R149). -/
theorem inv_loopTest {s : State} (hb : BlockSound s) (ho : s.offset.toNat ≤ 128) (hle : s.minlen ≤ s.maxlen)
    (hcap : s.maxlen.toNat ≤ 128) : Inv (loopTest s) := by
  unfold loopTest
  split
  · rename_i hlt
    exact inv_enterWait hb hlt hle hcap
  · exact inv_finish _ (by decide) hb ho

/-- The start of ACC (42_response_accumulator.md R146 to R148). -/
theorem inv_accStart {s : State} (h : IdleSound s) : Inv (accStart s) := by
  obtain ⟨hidle, hb⟩ := h
  rcases accStart_cases s with he | ⟨-, -, he⟩ | ⟨hcap, hle, hpos, he⟩ <;> rw [he]
  · exact IdleSound.inv ⟨hidle, hb⟩
  · exact inv_finish _ (by decide) hb (Nat.zero_le _)
  · exact inv_enterWait hb hpos hle hcap

/-- A wait of a running ACC (42_response_accumulator.md R150 to R152, R157). -/
theorem inv_waitStep {s : State} (hi : Inv s) (hr : s.rstate = .wait) : Inv (waitStep s) := by
  obtain ⟨hb, hacc, -⟩ := (inv_iff s).1 hi
  obtain ⟨hlt, hle, hcap⟩ := hacc (by rw [hr]; decide)
  have hoff : s.offset.toNat ≤ 128 := by
    rw [BitVec.lt_def] at hlt
    rw [BitVec.le_def] at hle
    omega
  unfold waitStep
  cases waitOutcome (waitAnswer s.env) s.timer with
  | ready => exact (inv_iff _).2 ⟨hb, fun _ => ⟨hlt, hle, hcap⟩, fun h => by cases h⟩
  | timeout => exact inv_finish _ (by decide) hb hoff
  | transient => exact inv_enterWait hb hlt hle hcap
  | hardError => exact inv_finish _ (by decide) hb hoff

/-- The stores of a read within the capacity keep the block sound and `OFFSET` within `BUF`
(42_response_accumulator.md R156). -/
theorem blockSound_storeRead {s : State} (bs : List Byte) (hb : BlockSound s)
    (hlen : s.offset.toNat + bs.length ≤ 128) :
    BlockSound (storeRead bs s) ∧ (storeRead bs s).offset.toNat ≤ 128 := by
  obtain ⟨hctrl, ⟨hwf, hrange⟩, hcount, hfok, hframe⟩ := hb
  refine ⟨⟨hctrl, ⟨Memory.wf_store _ _ _ hwf, Memory.inRange_store _ _ _ hlen hrange⟩, hcount, hfok, hframe⟩, ?_⟩
  rw [storeRead_offset bs s (by omega)]
  exact hlen

/-- A read of a running ACC (42_response_accumulator.md R153 to R156). -/
theorem inv_readStep {s t : State} (hi : Inv s) (hr : s.rstate = .read) (h : readStep s = .next t) : Inv t := by
  obtain ⟨hb, hacc, -⟩ := (inv_iff s).1 hi
  obtain ⟨-, hle, -⟩ := hacc (by rw [hr]; decide)
  obtain ⟨hroom, hcap, rfl⟩ := readStep_next s t h
  have hoff : s.offset.toNat ≤ 128 := by omega
  cases ha : readAnswer (readCap s) s.env with
  | error => exact inv_finish _ (by decide) hb hoff
  | bytes bs =>
    have hlen : bs.length ≤ s.maxlen.toNat - s.offset.toNat := readAnswer_length _ _ _ ha
    cases bs with
    | nil => exact inv_finish _ (by decide) hb hoff
    | cons b bs =>
      obtain ⟨hb', hoff'⟩ := blockSound_storeRead (s := { s with env := afterRead (readCap s) s.env }) (b :: bs) hb
        (by simp only; omega)
      exact inv_loopTest hb' hoff' hle hcap

/-! ### The host and the step -/

/-- The accesses of the host keep an idle block sound. -/
theorem idleSound_access (w : State → State) (hw : HostAccess w) (s : State) (h : IdleSound s) : IdleSound (w s) := by
  obtain ⟨hidle, hctrl, hbuf, hcount, hfok, hframe⟩ := h
  cases hw with
  | ctrl b =>
    have hbit : (b &&& 1) &&& 0xFE = 0 := (BitVec.and_assoc b 1 0xFE).trans BitVec.and_zero
    exact ⟨hidle, hbit, hbuf, hcount, hfok, hframe⟩
  | build => exact ⟨hidle, hctrl, hbuf, hcount, fun _ => rfl, fun h => by cases h⟩
  | check =>
    have hmatch : frameMatches s = true → s.status.fvalid = true := fun h => (Bool.and_eq_true_iff.1 h).1
    exact ⟨hidle, hctrl, hbuf, hcount, hmatch, hframe⟩
  | stored | value | bcd | p | op | maxlen | minlen | timeout | pack | unpack | raise =>
    exact ⟨hidle, hctrl, hbuf, hcount, hfok, hframe⟩

/-- SEND changes the error code, the transport and the trace output alone (41_frame_codec.md R137). -/
theorem idleSound_sendOp (s : State) (h : IdleSound s) : IdleSound (sendOp s) := by
  unfold sendOp
  split <;> exact h

theorem idleSound_sendCutByReset (n : Nat) (s : State) : IdleSound (sendCutByReset n s) := by
  unfold sendCutByReset
  split <;> exact idleSound_resetBlock _

theorem idleSound_keptByHost : KeptByHost IdleSound Inv where
  access := idleSound_access
  send := idleSound_sendOp
  host _ _ h := h
  done _ h := h.inv
  acc _ h := inv_accStart h

theorem inv_advanceLive {s t : State} (hi : Inv s) (h : advanceLive s = .next t) : Inv t := by
  cases hr : s.rstate with
  | idle => exact idleSound_keptByHost.advanceLive hr (idleSound_of_inv hi hr) h
  | wait =>
    rw [advanceLive_wait s hr] at h
    cases h
    exact inv_waitStep hi hr
  | read =>
    rw [advanceLive_read s hr] at h
    exact inv_readStep hi hr h

theorem inv_advanceWithin {ls : List Level} {s t : State} (hi : Inv s) (h : advanceWithin ls s = .next t) : Inv t := by
  rcases advanceWithin_cases ls s with ⟨sc, u, hq, he⟩ | ⟨-, -, he⟩ | ⟨-, -, he⟩ <;> rw [he] at h
  · cases h
    obtain ⟨hr, hm, a, rfl⟩ := stepSequence_some hq
    exact idleSound_keptByHost.runScriptWith (fun s _ => idleSound_resetBlock s)
      (fun n s _ => idleSound_sendCutByReset n s) ls sc hm _ (idleSound_of_inv hi hr)
  · cases h
    exact inv_resetBlock s
  · exact inv_advanceLive hi h

/-- Settles O56, by what a step can be: a live step, a reset, or a step under several levels of the reset input. -/
theorem everyStepKeepsTheInvariant : Obligations.EveryStepKeepsTheInvariant := by
  intro s t hi h
  have hpop : Inv (popReset s) := hi
  rcases step_cases s t h with ⟨-, hl⟩ | ⟨r, -, hl⟩ | ⟨r, -, rfl⟩ | ⟨ls, r, -, hl⟩
  · exact inv_advanceLive hi hl
  · exact inv_advanceLive hpop hl
  · exact inv_resetBlock _
  · exact inv_advanceWithin hpop hl

end Sys2Proof.Safety
end

