-- ==== Sys2Proof/Proofs/Trace.lean ====
section
/-! TRACE has no protocol effect (10_state.md R24): every operation of the machine takes states that differ only in what
TRACE may change to states that differ only in that. -/

namespace Sys2Proof.Machine

open Sys2Proof.Claims

/-- The state with another TRACE bit, trace output and record of what the host has read. -/
def retrace (c : Byte) (tr : List TraceItem) (rs : List Word) (s : State) : State :=
  { s with ctrl := c, trace := tr, host := { s.host with results := rs } }

/-- The operation does the same in states that agree in everything but what TRACE may change. -/
def TraceBlind (f : State → State) : Prop :=
  ∀ s u, hideTrace s = hideTrace u → hideTrace (f s) = hideTrace (f u)

/-- The same of an operation that can stop. -/
def TraceBlindOutcome (f : State → Host.Outcome State Fault Refusal) : Prop :=
  ∀ s u, hideTrace s = hideTrace u → mapNext hideTrace (f s) = mapNext hideTrace (f u)

/-- States that agree but for what TRACE may change are retraced forms of each other. -/
theorem eq_retrace_of_hideTrace {s u : State} (h : hideTrace s = hideTrace u) :
    ∃ c tr rs, u = retrace c tr rs s :=
  ⟨u.ctrl, u.trace, u.host.results, (congrArg (retrace u.ctrl u.trace u.host.results) h).symm⟩

theorem traceBlind_of_retrace {f : State → State}
    (h : ∀ c tr rs s, hideTrace (f s) = hideTrace (f (retrace c tr rs s))) : TraceBlind f := by
  intro s u hsu
  obtain ⟨c, tr, rs, rfl⟩ := eq_retrace_of_hideTrace hsu
  exact h c tr rs s

theorem TraceBlind.next {f : State → State} (h : TraceBlind f) : TraceBlindOutcome fun s => .next (f s) :=
  fun s u hsu => congrArg Host.Outcome.next (h s u hsu)

/-- The host may record anything it reads. -/
theorem hideTrace_giveResult {s u : State} (v w : Word) (h : hideTrace s = hideTrace u) :
    hideTrace (giveResult v s) = hideTrace (giveResult w u) := h

/-! ### One access -/

theorem HostAccess.traceBlind {w : State → State} (hw : HostAccess w) : TraceBlind w :=
  traceBlind_of_retrace fun c tr rs s => by cases hw <;> rfl

/-- No read in a host sequence is of CTRL. -/
theorem HostRead.eq_of_hideTrace {get : State → Byte} (hg : HostRead get) {s u : State}
    (h : hideTrace s = hideTrace u) : get s = get u := by
  obtain ⟨c, tr, rs, rfl⟩ := eq_retrace_of_hideTrace h
  cases hg <;> rfl

/-- The host draws its conclusions without regard to the record of what it has read. -/
theorem HostClosing.results {closing : HostAgent → HostAgent} (hc : HostClosing closing) (h : HostAgent)
    (rs : List Word) : closing { h with results := rs } = { closing h with results := rs } := by
  cases hc with
  | silent => rfl
  | note r => rfl
  | dump c b0 b1 =>
    unfold dumpClosing
    split
    · rfl
    · split <;> rfl

theorem traceBlind_closing {closing : HostAgent → HostAgent} (hc : HostClosing closing) :
    TraceBlind fun s => { s with host := closing s.host } :=
  traceBlind_of_retrace fun c tr rs s => by
    have h : closing (retrace c tr rs s).host = { closing s.host with results := rs } := hc.results s.host rs
    simp only [h]
    rfl

theorem traceBlind_resetBlock : TraceBlind resetBlock := traceBlind_of_retrace fun _ _ _ _ => rfl

theorem traceBlind_sendOp : TraceBlind sendOp :=
  traceBlind_of_retrace fun c tr rs s => by
    cases hf : s.status.fvalid with
    | true => rw [sendOp_built s hf, sendOp_built (retrace c tr rs s) hf]; rfl
    | false => rw [sendOp_unbuilt s hf, sendOp_unbuilt (retrace c tr rs s) hf]; rfl

theorem traceBlind_sendCutByReset (n : Nat) : TraceBlind (sendCutByReset n) :=
  traceBlind_of_retrace fun c tr rs s => by
    simp only [sendCutByReset, apply_ite hideTrace]
    rfl

/-! ### The accumulator -/

theorem traceBlind_loopTest : TraceBlind loopTest :=
  traceBlind_of_retrace fun c tr rs s => by
    simp only [loopTest, apply_ite hideTrace]
    rfl

theorem traceBlind_accStart : TraceBlind accStart :=
  traceBlind_of_retrace fun c tr rs s => by
    by_cases hl : accOperandsLegal s = true
    · have hl' : accOperandsLegal (retrace c tr rs s) = true := hl
      rw [accStart, accStart, if_pos hl, if_pos hl']
      exact traceBlind_loopTest _ _ rfl
    · have hl' : ¬ accOperandsLegal (retrace c tr rs s) = true := hl
      rw [accStart, accStart, if_neg hl, if_neg hl']
      rfl

theorem traceBlind_waitStep : TraceBlind waitStep :=
  traceBlind_of_retrace fun c tr rs s => by
    have ho : waitOutcome (waitAnswer (retrace c tr rs s).env) (retrace c tr rs s).timer =
        waitOutcome (waitAnswer s.env) s.timer := rfl
    rw [waitStep, waitStep, ho]
    cases waitOutcome (waitAnswer s.env) s.timer <;> rfl

theorem traceBlind_onReadAnswer (a : ReadAnswer) : TraceBlind (onReadAnswer a) :=
  traceBlind_of_retrace fun c tr rs s => by
    cases a with
    | error => rfl
    | bytes bs =>
      cases bs with
      | nil => rfl
      | cons b bs => exact traceBlind_loopTest _ _ rfl

theorem traceBlind_readStep : TraceBlindOutcome readStep := by
  intro s u h
  obtain ⟨c, tr, rs, rfl⟩ := eq_retrace_of_hideTrace h
  by_cases hr : s.offset < s.maxlen ∧ s.maxlen.toNat ≤ Config.bufCap
  · have hr' : (retrace c tr rs s).offset < (retrace c tr rs s).maxlen ∧
        (retrace c tr rs s).maxlen.toNat ≤ Config.bufCap := hr
    rw [readStep, readStep, if_pos hr, if_pos hr']
    exact congrArg Host.Outcome.next (traceBlind_onReadAnswer _ _ _ rfl)
  · have hr' : ¬ ((retrace c tr rs s).offset < (retrace c tr rs s).maxlen ∧
        (retrace c tr rs s).maxlen.toNat ≤ Config.bufCap) := hr
    rw [readStep, readStep, if_neg hr, if_neg hr']

/-! ### The host's sequences -/

theorem traceBlind_sampled (ls : List Level) : TraceBlind (sampled ls) := by
  intro s u h
  unfold sampled
  split
  · exact traceBlind_resetBlock s u h
  · exact h

theorem traceBlind_sendSampled (ls : List Level) : TraceBlind (sendSampled ls) := by
  intro s u h
  unfold sendSampled
  split
  · exact traceBlind_sendCutByReset _ s u h
  · exact traceBlind_sendOp _ _ (traceBlind_sampled ls s u h)

/-- A host sequence, whatever the reset input does: what it reads, and so how it goes on, is the same. -/
theorem traceBlind_runScriptWith (sc : Script) (hm : MadeOfAccesses sc) (ls : List Level) :
    TraceBlind (runScriptWith ls sc) := by
  intro s u h
  induction sc generalizing ls s u with
  | done closing => exact traceBlind_closing hm s u h
  | acc k =>
    have hs : hideTrace (awaiting k (sampled ls s)) = hideTrace (awaiting k (sampled ls u)) :=
      congrArg (awaiting k) (traceBlind_sampled ls s u h)
    exact traceBlind_accStart _ _ hs
  | access work next ih => exact ih hm.2 _ _ _ (hm.1.traceBlind _ _ (traceBlind_sampled ls s u h))
  | send next ih => exact ih hm _ _ _ (traceBlind_sendSampled ls s u h)
  | rdByte get next ih =>
    have hs := traceBlind_sampled ls s u h
    rw [runScriptWith, runScriptWith, hm.1.eq_of_hideTrace hs]
    exact ih _ (hm.2 _) _ _ _ (hideTrace_giveResult _ _ hs)
  | rdValue next ih =>
    have hs := traceBlind_sampled ls s u h
    have hv : (sampled ls s).value = (sampled ls u).value := (congrArg State.value hs :)
    rw [runScriptWith, runScriptWith, hv]
    exact ih _ (hm _) _ _ _ (hideTrace_giveResult _ _ hs)

theorem traceBlind_runScript (sc : Script) (hm : MadeOfAccesses sc) : TraceBlind (runScript sc) :=
  traceBlind_runScriptWith sc hm []

/-- The sequence an operation with a number stands for. -/
theorem numberSequence_retrace (d : Nibble) (v : Nat) (opc c : Byte) (tr : List TraceItem) (rs : List Word)
    (s : State) : numberSequence d v opc (retrace c tr rs s) =
      (numberSequence d v opc s).map (Prod.map id (retrace c tr rs)) := by
  unfold numberSequence
  split <;> rfl

theorem dumpMark_retrace (c : Byte) (tr : List TraceItem) (rs : List Word) (s : State) :
    dumpMark (retrace c tr rs s) = retrace c tr rs (dumpMark s) := by
  rw [dumpMark_eq, dumpMark_eq]
  rfl

/-- The sequence one address of DUMP stands for. -/
theorem dumpSequence_retrace (c : Byte) (tr : List TraceItem) (rs : List Word) (s : State) :
    dumpSequence (retrace c tr rs s) = (dumpSequence s).map (Prod.map id (retrace c tr rs)) := by
  simp only [dumpSequence, dumpMark_retrace, apply_ite (Option.map (Prod.map id (retrace c tr rs)))]
  rfl

/-- The sequence of a request, and the state it starts in, but for what TRACE may change. -/
theorem sequenceOf_retrace (r : Request) (c : Byte) (tr : List TraceItem) (rs : List Word) (s : State) :
    sequenceOf r (retrace c tr rs s) = (sequenceOf r s).map (Prod.map id (retrace c tr rs)) := by
  cases r with
  | rd num => rfl
  | rdbuf i => rfl
  | wr num v => simp only [sequenceOf]; split <;> rfl
  | frame f => rfl
  | tune n => exact numberSequence_retrace _ _ _ c tr rs s
  | ctcssTone n => exact numberSequence_retrace _ _ _ c tr rs s
  | rptOfs n => exact numberSequence_retrace _ _ _ c tr rs s
  | flush => rfl
  | dump => exact dumpSequence_retrace c tr rs (dumpClear s)
  | dumpNext => exact dumpSequence_retrace c tr rs s

/-- The sequence of a step, and the state it starts in, but for what TRACE may change. -/
theorem stepSequence_retrace (c : Byte) (tr : List TraceItem) (rs : List Word) (s : State) :
    stepSequence (retrace c tr rs s) = (stepSequence s).map (Prod.map id (retrace c tr rs)) := by
  have hr : (retrace c tr rs s).rstate = s.rstate := rfl
  have hk : (retrace c tr rs s).host.task = s.host.task := rfl
  have hq : (retrace c tr rs s).host.queue = s.host.queue := rfl
  have ho : (retrace c tr rs s).env.opened = s.env.opened := rfl
  unfold stepSequence
  rw [hr, hk, hq, ho]
  cases s.rstate with
  | wait | read => rfl
  | idle =>
    cases s.host.task with
    | some k => rfl
    | none =>
      cases s.host.queue with
      | nil => rfl
      | cons r rest =>
        cases s.env.opened with
        | false => rfl
        | true => exact sequenceOf_retrace r c tr rs (popRequest s)

/-! ### The host's requests -/

theorem traceBlind_withTransport {work : State → State} (hw : TraceBlind work) :
    TraceBlindOutcome fun s => withTransport s work := by
  intro s u h
  have ho : s.env.opened = u.env.opened := congrArg (fun t => t.env.opened) h
  simp only [withTransport, ho]
  split
  · exact hw.next s u h
  · rfl

theorem traceBlind_runCommand (c : Byte) : TraceBlindOutcome (runCommand c) := by
  intro s u h
  rcases runCommand_uniform c with ⟨w, hw, hc⟩ | hc | hc <;> rw [hc s, hc u]
  · exact hw.traceBlind.next s u h
  · exact traceBlind_withTransport traceBlind_sendOp s u h
  · exact traceBlind_withTransport traceBlind_accStart s u h

theorem traceBlind_runNumber (d : Nibble) (v : Nat) (opc : Byte) : TraceBlindOutcome (runNumber d v opc) := by
  intro s u h
  obtain ⟨c, tr, rs, rfl⟩ := eq_retrace_of_hideTrace h
  rw [runNumber, runNumber, numberSequence_retrace]
  cases hq : numberSequence d v opc s with
  | none => rfl
  | some q => exact traceBlind_withTransport (traceBlind_runScript q.1 (numberSequence_some hq).1) _ _ rfl

theorem traceBlind_runDump : TraceBlindOutcome runDump := by
  intro s u h
  obtain ⟨c, tr, rs, rfl⟩ := eq_retrace_of_hideTrace h
  rw [runDump, runDump, dumpSequence_retrace]
  cases hq : dumpSequence s with
  | none => rfl
  | some q => exact traceBlind_withTransport (traceBlind_runScript q.1 (dumpSequence_some hq).1) _ _ rfl

theorem traceBlind_runRequest (r : Request) : TraceBlindOutcome (runRequest r) := by
  intro s u h
  cases r with
  | rd num =>
    rcases readReg_uniform num with ⟨e, hv⟩ | hv
    · simp only [runRequest, hv]
    · obtain ⟨v, hs⟩ := hv s
      obtain ⟨w, hu⟩ := hv u
      simp only [runRequest, hs, hu]
      exact congrArg Host.Outcome.next (hideTrace_giveResult v w h)
  | wr num v =>
    rcases writeReg_uniform num v with ⟨e, hw⟩ | ⟨w, ha, hw⟩ <;> simp only [runRequest, hw]
    split
    · exact traceBlind_runCommand _ _ _ (ha.traceBlind s u h)
    · exact ha.traceBlind.next s u h
  | rdbuf i =>
    simp only [runRequest]
    split
    · exact congrArg Host.Outcome.next (hideTrace_giveResult _ _ h)
    · rfl
  | frame f =>
    rw [runRequest, runRequest, runFrame_eq, runFrame_eq]
    exact traceBlind_withTransport (traceBlind_runScript _ (madeOfAccesses_catScript f _)) s u h
  | tune n => exact traceBlind_runNumber _ _ _ s u h
  | ctcssTone n => exact traceBlind_runNumber _ _ _ s u h
  | rptOfs n => exact traceBlind_runNumber _ _ _ s u h
  | flush => exact traceBlind_withTransport (traceBlind_runScript _ (madeOfAccesses_recv _)) s u h
  | dump => exact traceBlind_runDump (dumpClear s) (dumpClear u) (congrArg dumpClear h)
  | dumpNext => exact traceBlind_runDump s u h

/-! ### The step -/

theorem traceBlind_advanceLive : TraceBlindOutcome advanceLive := by
  intro s u h
  have hr : u.rstate = s.rstate := (congrArg State.rstate h).symm
  have hk : u.host.task = s.host.task := (congrArg (fun t => t.host.task) h).symm
  have hq : u.host.queue = s.host.queue := (congrArg (fun t => t.host.queue) h).symm
  unfold advanceLive
  rw [hr, hk, hq]
  cases s.rstate with
  | wait => exact traceBlind_waitStep.next s u h
  | read => exact traceBlind_readStep s u h
  | idle =>
    cases s.host.task with
    | some k => exact (traceBlind_runScript _ (madeOfAccesses_taskScript k)).next _ _ (congrArg clearTask h)
    | none =>
      cases s.host.queue with
      | nil => exact congrArg Host.Outcome.next h
      | cons r rest => exact traceBlind_runRequest r _ _ (congrArg popRequest h)

theorem traceBlind_advanceWithin (ls : List Level) : TraceBlindOutcome (advanceWithin ls) := by
  intro s u h
  obtain ⟨c, tr, rs, rfl⟩ := eq_retrace_of_hideTrace h
  rw [advanceWithin, advanceWithin, stepSequence_retrace]
  cases hq : stepSequence s with
  | some q =>
    obtain ⟨-, hm, -⟩ := stepSequence_some hq
    exact (traceBlind_runScriptWith q.1 hm ls).next _ _ rfl
  | none =>
    simp only [Option.map_none]
    split
    · exact traceBlind_resetBlock.next _ _ rfl
    · exact traceBlind_advanceLive _ _ h

/-- Settles O58, by what a step can be: both states have the same reset input, and each kind of step is blind to what
TRACE may change. -/
theorem traceHasNoProtocolEffect : Obligations.TraceHasNoProtocolEffect := by
  intro s u h
  have hr : s.resetIn = u.resetIn := (congrArg State.resetIn h :)
  have hpop : hideTrace (popReset s) = hideTrace (popReset u) := congrArg popReset h
  rw [step, step, advance, advance, hr]
  cases u.resetIn with
  | nil => exact traceBlind_advanceLive s u h
  | cons x r =>
    cases x with
    | off => exact traceBlind_advanceLive _ _ hpop
    | on => exact traceBlind_resetBlock.next _ _ hpop
    | within ls => exact traceBlind_advanceWithin ls _ _ hpop

end Sys2Proof.Machine
end

