-- ==== Sys2Proof/Proofs/Flags.lean ====
section
/-! The flags of `STATUS` and the reserved writes (10_state.md R25, R34 to R36). -/

namespace Sys2Proof.Machine

open Sys2Proof.Claims

/-! ### FVALID -/

/-- A frame has been latched since reset (10_state.md R25). -/
def Built (s : State) : Prop := s.status.fvalid = true

/-- The writes and commands of the host set `FVALID` or leave it. -/
theorem built_access (w : State → State) (hw : HostAccess w) (s : State) (h : Built s) : Built (w s) := by
  cases hw with
  | build => exact rfl
  | stored | ctrl | value | bcd | p | op | maxlen | minlen | timeout | pack | unpack | check | raise => exact h

theorem built_sendOp (s : State) (h : Built s) : Built (sendOp s) := by
  rw [sendOp_built s h]
  exact h

theorem built_loopTest (s : State) (h : Built s) : Built (loopTest s) := by
  unfold loopTest
  split <;> exact h

theorem built_accStart (s : State) (h : Built s) : Built (accStart s) := by
  unfold accStart
  split
  · exact built_loopTest _ h
  · exact h

theorem built_waitStep (s : State) (h : Built s) : Built (waitStep s) := by
  unfold waitStep
  cases waitOutcome (waitAnswer s.env) s.timer with
  | ready | timeout | transient | hardError => exact h

theorem built_readStep {s t : State} (h : Built s) (ht : readStep s = .next t) : Built t := by
  obtain ⟨-, -, rfl⟩ := readStep_next s t ht
  cases readAnswer (readCap s) s.env with
  | error => exact h
  | bytes bs =>
    cases bs with
    | nil => exact h
    | cons b bs => exact built_loopTest _ h

theorem built_keptByHost : KeptByHost Built Built where
  access := built_access
  send := built_sendOp
  host _ _ h := h
  done _ h := h
  acc := built_accStart

/-- Settles O42, by what a live step can be: a wait or a read of a running ACC, or a step of the host. -/
theorem fvalidIsClearedOnlyByReset : Obligations.FvalidIsClearedOnlyByReset := by
  intro s t hreset hbuilt h
  rw [step_live s hreset] at h
  cases hr : s.rstate with
  | idle => exact built_keptByHost.advanceLive hr hbuilt h
  | wait =>
    rw [advanceLive_wait s hr] at h
    cases h
    exact built_waitStep s hbuilt
  | read =>
    rw [advanceLive_read s hr] at h
    exact built_readStep hbuilt h

/-! ### Reserved writes -/

/-- STATUS, COUNT and FRAME0 to FRAME4 are read-only (10_state.md R36). -/
theorem writeReg_readOnly (s : State) (num : Byte) (v : Word)
    (h : num.toNat = 0x01 ∨ (0x10 ≤ num.toNat ∧ num.toNat ≤ 0x15)) :
    writeReg s num v = .error (.writeOfReadOnly num) := by
  have hnum : num.toNat = 0x01 ∨ num.toNat = 0x10 ∨ num.toNat = 0x11 ∨ num.toNat = 0x12 ∨ num.toNat = 0x13 ∨
      num.toNat = 0x14 ∨ num.toNat = 0x15 := by omega
  rcases hnum with hn | hn | hn | hn | hn | hn | hn <;> simp only [writeReg, hn]

/-- Numbers from 0x16 up name no register (10_state.md R36). -/
theorem writeReg_reserved (s : State) (num : Byte) (v : Word) (h : 0x16 ≤ num.toNat) :
    writeReg s num v = .error (.reservedRegister num) := by
  obtain ⟨n, hn⟩ : ∃ n, num.toNat = n + 0x16 := ⟨num.toNat - 0x16, by omega⟩
  rw [writeReg, hn]
  rfl

/-- A WR whose write is refused is refused for the same reason. -/
theorem runRequest_wr_error {s : State} {num : Byte} {v : Word} {e : Refusal} (h : writeReg s num v = .error e) :
    runRequest (.wr num v) s = .refused e := by
  simp only [runRequest, h]

/-- Settles O38: the step is the request, and its write is refused in every state. -/
theorem reservedWritesAreRefused : Obligations.ReservedWritesAreRefused := by
  intro s num v rest ⟨hreset, hidle, htask, hqueue⟩
  rw [step_request s _ rest hreset hidle htask hqueue]
  exact ⟨fun h => runRequest_wr_error (writeReg_readOnly _ num v h),
    fun h => runRequest_wr_error (writeReg_reserved _ num v h)⟩

/-! ### The byte of STATUS -/

/-- The number of two bit fields side by side. -/
theorem toNat_append_eq {m n : Nat} (x : BitVec m) (y : BitVec n) :
    (x ++ y).toNat = x.toNat * 2 ^ n + y.toNat := by
  rw [BitVec.toNat_append, ← Nat.shiftLeft_add_eq_or_of_lt y.isLt, Nat.shiftLeft_eq]

/-- The byte of STATUS by the codes of its fields (10_state.md R25). -/
theorem statusByte_toNat (st : Status) : (statusByte st).toNat =
    (errBits st.err).toNat * 32 + st.fok.toNat * 16 + st.fvalid.toNat * 8 + (causeBits st.cause).toNat := by
  simp only [statusByte, toNat_append_eq, BitVec.toNat_ofBool]
  omega

/-- Settles O40, field by field: each term of the sum is the code of its field. -/
theorem statusByteIsItsFields : Obligations.StatusByteIsItsFields := by
  intro st
  obtain ⟨cause, fvalid, fok, err⟩ := st
  refine (statusByte_toNat _).trans (congrArg₂ _ (congrArg₂ _ (congrArg₂ _ ?err ?fok) ?fvalid) ?cause)
  case err => cases err <;> rfl
  case fok => cases fok <;> rfl
  case fvalid => cases fvalid <;> rfl
  case cause => cases cause <;> rfl

end Sys2Proof.Machine
end

