-- ==== Sys2Proof/Proofs/Memory.lean ====
section
/-! The response buffer: RDBUF reads one cell (20_memory.md R72), and only the read step of an ACC changes any
(20_memory.md R60, 42_response_accumulator.md R156). -/

namespace Sys2Proof.Machine

open Sys2Proof.Claims

/-! ### RDBUF -/

/-- RDBUF of an index of the buffer hands over the cell (43_host_access.md R183). -/
theorem runRequest_rdbuf_cell (s : State) (i : Nat) (h : i < 128) : runRequest (.rdbuf i) s = .next (rdbufOp i s) :=
  if_pos h

/-- RDBUF of an index past the buffer is reserved (20_memory.md R72). -/
theorem runRequest_rdbuf_reserved (s : State) (i : Nat) (h : 128 ≤ i) :
    runRequest (.rdbuf i) s = .refused (.reservedBufferIndex i) :=
  if_neg (Nat.not_lt.2 h)

/-- Taking a request off the queue leaves the others. -/
theorem popRequest_eq_issued (s : State) (r : Request) (rest : List Request) (h : s.host.queue = r :: rest) :
    popRequest s = issued s rest := by
  rw [popRequest, h]
  rfl

/-- Settles O39: the step is the request, and the index decides between the read and the refusal. -/
theorem rdbufReturnsTheCell : Obligations.RdbufReturnsTheCell := by
  intro s i rest ⟨hreset, hidle, htask, hqueue⟩
  rw [step_request s _ rest hreset hidle htask hqueue, popRequest_eq_issued s _ rest hqueue]
  exact ⟨runRequest_rdbuf_cell _ i, runRequest_rdbuf_reserved _ i⟩

/-! ### What leaves the buffer -/

/-- The cells are those of `s`, and no reset has come in between: what a cell that was never written holds depends on
the number of resets (20_memory.md R63; log 4). -/
def KeepsCells (s t : State) : Prop := t.buf = s.buf ∧ t.resets = s.resets

theorem KeepsCells.refl (s : State) : KeepsCells s s := ⟨rfl, rfl⟩

theorem KeepsCells.sameBuffer {s t : State} (h : KeepsCells s t) : SameBuffer s t := readBuf_congr s t h.1 h.2

/-- No write and no command of the host stores to the buffer. -/
theorem keepsCells_access {s : State} (w : State → State) (hw : HostAccess w) (t : State) (h : KeepsCells s t) :
    KeepsCells s (w t) := by
  cases hw with
  | stored | ctrl | value | bcd | p | op | maxlen | minlen | timeout | pack | unpack | build | check | raise => exact h

theorem keepsCells_sendOp {s : State} (t : State) (h : KeepsCells s t) : KeepsCells s (sendOp t) := by
  unfold sendOp
  split <;> exact h

/-- The start of ACC stores nothing: its answers come later (42_response_accumulator.md R146 to R148). -/
theorem keepsCells_accStart {s : State} (t : State) (h : KeepsCells s t) : KeepsCells s (accStart t) := by
  rcases accStart_cases t with he | ⟨-, -, he⟩ | ⟨-, -, -, he⟩ <;> rw [he] <;> exact h

/-- A wait stores nothing, whatever ends it (42_response_accumulator.md R150 to R152, R157). -/
theorem keepsCells_waitStep {s : State} (t : State) (h : KeepsCells s t) : KeepsCells s (waitStep t) := by
  unfold waitStep
  cases waitOutcome (waitAnswer t.env) t.timer with
  | ready | timeout | transient | hardError => exact h

theorem keepsCells_keptByHost (s : State) : KeptByHost (KeepsCells s) (KeepsCells s) where
  access := keepsCells_access
  send := keepsCells_sendOp
  host _ _ h := h
  done _ h := h
  acc := keepsCells_accStart

/-- A live step that is not the read of an ACC is a wait or the host's (42_response_accumulator.md R156). -/
theorem keepsCells_advanceLive {s t : State} (hread : s.rstate ≠ .read) (h : advanceLive s = .next t) :
    KeepsCells s t := by
  cases hr : s.rstate with
  | idle => exact (keepsCells_keptByHost s).advanceLive hr (.refl s) h
  | wait =>
    rw [advanceLive_wait s hr] at h
    cases h
    exact keepsCells_waitStep s (.refl s)
  | read => exact absurd hr hread

/-- Settles O43: the step is live, and both the cells and the number of resets are kept, so every address reads as
before. -/
theorem onlyReadStepsChangeTheBuffer : Obligations.OnlyReadStepsChangeTheBuffer := by
  intro s t hreset hread h
  rw [step_live s hreset] at h
  have hkept := keepsCells_advanceLive hread h
  exact ⟨hkept.1, hkept.sameBuffer⟩

end Sys2Proof.Machine
end

