-- ==== Sys2Proof/Proofs/Encoding.lean ====
section
/-! The encodings: the decoder and the encoder are inverse (30_encoding.md R80 to R89), what each of the 256 command
bytes does (R83), and the frames whose opcode is none of the nine (R93). -/

namespace Sys2Proof.Machine

open Sys2Proof.Claims

/-! ### The fields of a command byte -/

/-- The code of a command byte, on numbers (30_encoding.md R80). -/
theorem codeOf_toNat (c : Byte) : (codeOf c).toNat = c.toNat / 16 := by
  have hlt : c.toNat < 256 := c.isLt
  rw [codeOf, BitVec.extractLsb'_toNat, Nat.shiftRight_eq_div_pow]
  omega

/-- The immediate of a command byte, on numbers (30_encoding.md R80). -/
theorem immOf_toNat (c : Byte) : (immOf c).toNat = c.toNat % 16 := by
  rw [immOf, BitVec.extractLsb'_toNat, Nat.shiftRight_zero]

theorem commandByte_toNat (code imm : Nibble) : (commandByte code imm).toNat = code.toNat * 16 + imm.toNat :=
  toNat_append_eq code imm

theorem codeOf_commandByte (code imm : Nibble) : codeOf (commandByte code imm) = code := by
  apply BitVec.eq_of_toNat_eq
  rw [codeOf_toNat, commandByte_toNat]
  have := imm.isLt
  omega

theorem immOf_commandByte (code imm : Nibble) : immOf (commandByte code imm) = imm := by
  apply BitVec.eq_of_toNat_eq
  rw [immOf_toNat, commandByte_toNat]
  have := imm.isLt
  omega

/-- A command byte is its code and its immediate: no bit is left over (30_encoding.md R80). -/
theorem commandByte_of_fields {c : Byte} {code imm : Nibble} (hcode : (codeOf c).toNat = code.toNat)
    (himm : immOf c = imm) : commandByte code imm = c := by
  apply BitVec.eq_of_toNat_eq
  rw [commandByte_toNat, ← hcode, ← himm, codeOf_toNat, immOf_toNat]
  omega

/-! ### The decoder and the encoder -/

/-- A command without an immediate decodes only where the field is 0 (30_encoding.md R83). -/
theorem bareCommand_ok {c : Byte} {i j : Instr} (h : bareCommand c i = .ok j) : immOf c = 0 ∧ j = i := by
  unfold bareCommand at h
  split at h <;> cases h
  exact ⟨‹_›, rfl⟩

/-- The command read from a byte is written as that byte (30_encoding.md R81, R83). -/
theorem encode_of_decodeCommand {c : Byte} {i : Instr} (h : decodeCommand c = .ok i) : encode i = [c] := by
  unfold decodeCommand at h
  split at h
  case h_1 hcode | h_2 hcode =>
    cases h
    exact congrArg (· :: []) (commandByte_of_fields hcode rfl)
  case h_3 hcode | h_4 hcode | h_5 hcode | h_6 hcode =>
    obtain ⟨himm, rfl⟩ := bareCommand_ok h
    exact congrArg (· :: []) (commandByte_of_fields hcode himm)
  case h_7 => cases h

/-- The bytes of a frame, its opcode given by its number (30_encoding.md R86). -/
theorem frameBytes_of_opc {f : Frame} {op : Byte} (h : f.opc.toNat = op.toNat) :
    [f.b0, f.b1, f.b2, f.b3, op] = frameBytes f := by
  rw [← BitVec.eq_of_toNat_eq h, frameBytes]

/-- The operation read from a frame is written as the frame's five bytes (30_encoding.md R86, R88). -/
theorem encode_of_decodeFrame {f : Frame} {i : Instr} (h : decodeFrame f = .ok i) : encode i = frameBytes f := by
  unfold decodeFrame at h
  split at h
  case h_1 hop | h_2 hop | h_3 hop | h_4 hop | h_5 hop | h_6 hop | h_7 hop | h_8 hop | h_9 hop =>
    cases h
    exact frameBytes_of_opc hop
  case h_10 => cases h

/-- What the decoder reads from bytes, the encoder writes as those bytes (30_encoding.md R96). -/
theorem encode_of_decode {bs : List Byte} {i : Instr} (h : decode bs = .ok i) : encode i = bs := by
  unfold decode at h
  split at h
  · exact encode_of_decodeCommand h
  · exact encode_of_decodeFrame h
  · cases h

/-- What the encoder writes, the decoder reads as the instruction written, every operand with it. -/
theorem decode_encode (i : Instr) : decode (encode i) = .ok i := by
  cases i with
  | pack d | unpack d =>
    simp only [encode, decode, decodeCommand, codeOf_commandByte, immOf_commandByte]
    rfl
  | build | check | send | acc => rfl
  | probe | tune | setmode | readfreq | ctcssdcs | ctcsstone | rptdir | rptofs | eeread => rfl

/-- Settles O45: each direction is one of the two round trips. -/
theorem decodeAndEncodeAgree : Obligations.DecodeAndEncodeAgree :=
  fun _ i => ⟨encode_of_decode, fun h => h ▸ decode_encode i⟩

/-- Settles O47: each word is what the encoder writes for its instruction. -/
theorem sampleWordsDecode : Obligations.SampleWordsDecode :=
  ⟨decode_encode (.pack 8), decode_encode (.unpack 2), decode_encode .build, decode_encode .acc,
    decode_encode (.tune 0x14 0x40 0x12 0x34), decode_encode (.rptdir 0x09 0 0 0),
    decode_encode (.eeread 0x01 0x02 0 0), congrArg Except.toOption (decode_encode (.probe 0 0 0 0))⟩

/-! ### The opcode of a frame -/

/-- The parameter bytes are operands alone: with them left out, a frame decodes as the one with zero parameters
(30_encoding.md R89). -/
theorem decodeFrame_withoutParams (f : Frame) :
    (decodeFrame f).map withoutParams = (decodeFrame (layoutZ f.opc)).map withoutParams := by
  simp only [decodeFrame, layoutZ]
  split <;> rfl

/-- An instruction is written as five bytes with a given opcode exactly where that opcode is one of the nine
(30_encoding.md R88). -/
theorem encode_frame_iff (p0 p1 p2 p3 op : Byte) :
    (∃ i, encode i = [p0, p1, p2, p3, op]) ↔ op ∈ nineOpcodes := by
  constructor
  · rintro ⟨i, h⟩
    cases i with
    | pack | unpack | build | check | send | acc => cases h
    | probe | tune | setmode | readfreq | ctcssdcs | ctcsstone | rptdir | rptofs | eeread => cases h; decide
  · intro h
    simp only [nineOpcodes, List.mem_cons, List.not_mem_nil, or_false] at h
    rcases h with rfl | rfl | rfl | rfl | rfl | rfl | rfl | rfl | rfl
    · exact ⟨.probe p0 p1 p2 p3, rfl⟩
    · exact ⟨.tune p0 p1 p2 p3, rfl⟩
    · exact ⟨.setmode p0 p1 p2 p3, rfl⟩
    · exact ⟨.readfreq p0 p1 p2 p3, rfl⟩
    · exact ⟨.ctcssdcs p0 p1 p2 p3, rfl⟩
    · exact ⟨.ctcsstone p0 p1 p2 p3, rfl⟩
    · exact ⟨.rptdir p0 p1 p2 p3, rfl⟩
    · exact ⟨.rptofs p0 p1 p2 p3, rfl⟩
    · exact ⟨.eeread p0 p1 p2 p3, rfl⟩

/-- Settles O46: both frames decode as the one with zero parameters, and what decodes is what the encoder writes. -/
theorem opcodeAloneSelectsTheFrame : Obligations.OpcodeAloneSelectsTheFrame := by
  intro p0 p1 p2 p3 q0 q1 q2 q3 op
  refine ⟨?_, (exists_congr fun i => decodeAndEncodeAgree _ i).trans (encode_frame_iff p0 p1 p2 p3 op)⟩
  exact (decodeFrame_withoutParams ⟨p0, p1, p2, p3, op⟩).trans (decodeFrame_withoutParams ⟨q0, q1, q2, q3, op⟩).symm

/-! ### The 256 command bytes -/

/-- The step in which the host writes a byte to CMD (43_host_access.md R186). -/
theorem step_command {s : State} {c : Byte} {rest : List Request} (h : Asks s (.wr 0x02 (c.setWidth 32)) rest) :
    step s = runCommand c (issued s rest) := by
  obtain ⟨hreset, hidle, htask, hqueue⟩ := h
  rw [step_request s _ rest hreset hidle htask hqueue, popRequest_eq_issued s _ rest hqueue, runRequest_command]

theorem runCommand_ok {c : Byte} {i : Instr} (h : decode [c] = .ok i) (s : State) : runCommand c s = exec i s := by
  simp only [runCommand, h]

theorem runCommand_error {c : Byte} {e : DecodeError} (h : decode [c] = .error e) (s : State) :
    runCommand c s = .next (withErr s .illegalCommand) := by
  simp only [runCommand, h]
  rfl

/-- A code that names no command, or a non-zero immediate on a command that takes none: no instruction is written as
such a byte, so none is read from it (30_encoding.md R83). -/
theorem decode_illegal_byte {c : Byte} (h : c.toNat / 16 = 0 ∨ 7 ≤ c.toNat / 16 ∨
    (3 ≤ c.toNat / 16 ∧ c.toNat / 16 ≤ 6 ∧ c.toNat % 16 ≠ 0)) : ∃ e, decode [c] = .error e := by
  cases hd : decode [c] with
  | error e => exact ⟨e, rfl⟩
  | ok i =>
    exfalso
    have hbyte := encode_of_decode hd
    cases i with
    | pack d | unpack d =>
      cases hbyte
      rw [commandByte_toNat] at h
      have := d.isLt
      simp only [BitVec.reduceToNat] at h
      omega
    | build | check | send | acc => cases hbyte; revert h; decide
    | probe | tune | setmode | readfreq | ctcssdcs | ctcsstone | rptdir | rptofs | eeread => cases hbyte

/-- The immediate of a byte as the operand of its command (30_encoding.md R80). -/
theorem immOf_eq_ofNat (c : Byte) : immOf c = BitVec.ofNat 4 (c.toNat % 16) := by
  rw [← immOf_toNat, BitVec.ofNat_toNat, BitVec.setWidth_eq]

/-- Code 1 is PACK, whatever the immediate (30_encoding.md R81, R83). -/
theorem decode_pack_byte {c : Byte} (h : c.toNat / 16 = 1) :
    decode [c] = .ok (.pack (BitVec.ofNat 4 (c.toNat % 16))) := by
  rw [decodeAndEncodeAgree, ← immOf_eq_ofNat]
  exact congrArg (· :: []) (commandByte_of_fields ((codeOf_toNat c).trans h) rfl)

/-- Code 2 is UNPACK, whatever the immediate (30_encoding.md R81, R83). -/
theorem decode_unpack_byte {c : Byte} (h : c.toNat / 16 = 2) :
    decode [c] = .ok (.unpack (BitVec.ofNat 4 (c.toNat % 16))) := by
  rw [decodeAndEncodeAgree, ← immOf_eq_ofNat]
  exact congrArg (· :: []) (commandByte_of_fields ((codeOf_toNat c).trans h) rfl)

/-- The test of the digit count, on numbers (30_encoding.md R82). -/
theorem digitsLegal_ofNat {n : Nat} (hlt : n < 16) : digitsLegal (BitVec.ofNat 4 n) = true ↔ n ∈ [2, 4, 6, 8] := by
  interval_cases n <;> decide

/-- PACK of an illegal digit count sets the error and nothing else (40_bcd_codec.md R112). -/
theorem exec_pack_illegal {d : Nibble} (h : ¬ digitsLegal d = true) (s : State) :
    exec (.pack d) s = .next (withErr s .illegalOperand) :=
  congrArg Host.Outcome.next (if_neg h)

/-- UNPACK of an illegal digit count sets the error and nothing else (40_bcd_codec.md R116). -/
theorem exec_unpack_illegal {d : Nibble} (h : ¬ digitsLegal d = true) (s : State) :
    exec (.unpack d) s = .next (withErr s .illegalOperand) :=
  congrArg Host.Outcome.next (if_neg h)

/-- Settles O44: the step runs what the byte decodes to, and the two fields of the byte decide what that is. -/
theorem everyCommandByteIsClassified : Obligations.EveryCommandByteIsClassified := by
  intro s c rest h
  rw [step_command h]
  have hdigits := digitsLegal_ofNat (Nat.mod_lt c.toNat (by decide : 0 < 16))
  refine ⟨fun hc => ?illegalCommand, fun hc hd => ?illegalOperand, fun hc _ => runCommand_ok (decode_pack_byte hc) _,
    fun hc _ => runCommand_ok (decode_unpack_byte hc) _, ?build, ?check, ?send, ?acc⟩
  case illegalCommand =>
    obtain ⟨e, he⟩ := decode_illegal_byte hc
    exact runCommand_error he _
  case illegalOperand =>
    rcases hc with hc | hc
    · rw [runCommand_ok (decode_pack_byte hc), exec_pack_illegal (mt hdigits.1 hd)]
    · rw [runCommand_ok (decode_unpack_byte hc), exec_unpack_illegal (mt hdigits.1 hd)]
  case build => rintro rfl; exact runCommand_ok (decode_encode .build) _
  case check => rintro rfl; exact runCommand_ok (decode_encode .check) _
  case send => rintro rfl; exact runCommand_ok (decode_encode .send) _
  case acc => rintro rfl; exact runCommand_ok (decode_encode .acc) _

/-! ### A frame without a response -/

/-- The step in which the host sends a frame: the operation of its opcode (30_encoding.md R88, R93). -/
theorem step_frame {s : State} {f : Frame} {rest : List Request} (h : Asks s (.frame f) rest) :
    step s = catCommand f (responseOf f) (issued s rest) := by
  obtain ⟨hreset, hidle, htask, hqueue⟩ := h
  rw [step_request s _ rest hreset hidle htask hqueue, popRequest_eq_issued s _ rest hqueue, runRequest, runFrame_eq]

/-- An opcode that is none of the nine has no response (30_encoding.md R93, R95). -/
theorem responseOf_undefined {f : Frame} (h : f.opc ∉ nineOpcodes) : responseOf f = none := by
  have hne : ∀ op ∈ nineOpcodes, f.opc.toNat ≠ op.toNat := fun op hop he => h (BitVec.eq_of_toNat_eq he ▸ hop)
  unfold responseOf
  split
  case h_1 hop => exact absurd hop (hne 0xA7 (by decide))
  case h_2 hop => exact absurd hop (hne 0x03 (by decide))
  case h_3 hop => exact absurd hop (hne 0xBB (by decide))
  case h_4 => rfl

/-- A frame without a response is built and sent, and the host notes it (44_cat_commands.md R192; log 8, 16). -/
theorem catCommand_silent {s : State} (f : Frame) (h : WillSend s) :
    catCommand f none s = .next (sentState s f .whole .none (.frameSent f.opc)) := by
  obtain ⟨hopened, hanswer⟩ := h
  rw [catCommand, withTransport_opened _ _ hopened, runScript_catScript f none s _ (sendFrame_sends f s), hanswer,
    afterStatus_silent f _ (by simp [errOf]), runScript_done]
  rfl

/-- SENDFRAME stores nothing in the buffer. -/
theorem sameBuffer_sentState (s : State) (f : Frame) (fate : TxFate) (c : ErrCode) (r : Report) :
    SameBuffer s (sentState s f fate c r) :=
  readBuf_congr s _ rfl rfl

/-- Settles O16: a frame whose opcode is none of the nine has no response, so it is built, sent and done. -/
theorem undefinedOpcodeIsSentLikeAnyOther : Obligations.UndefinedOpcodeIsSentLikeAnyOther := by
  intro s f rest hasks hopc hsend
  refine ⟨?_, sameBuffer_sentState (issued s rest) f _ _ _⟩
  rw [step_frame hasks, responseOf_undefined hopc]
  exact catCommand_silent f hsend

end Sys2Proof.Machine
end

section
/-! The BCD codec: what PACK and UNPACK write and leave, and how far each undoes the other (40_bcd_codec.md R110 to
R125). The facts about the two loops are for every field of at most four bytes; an instruction adds only that its digit
count is twice the number of bytes. -/

namespace Sys2Proof.Machine

open Sys2Proof.Claims

/-! ### The bytes of a Quad -/

@[simp] theorem quadGet_quadSet_same (q : Quad) (k : Nat) (b : Byte) : quadGet (quadSet q k b) k = b := by
  unfold quadSet
  split <;> simp [quadGet]

theorem quadGet_quadSet_of_lt (q : Quad) {j k : Nat} (b : Byte) (hjk : j < k) (hk : k < 4) :
    quadGet (quadSet q j b) k = quadGet q k := by
  interval_cases k <;> interval_cases j <;> rfl

theorem quadGet_zero (k : Nat) : quadGet ⟨0, 0, 0, 0⟩ k = 0 := by
  unfold quadGet
  split <;> rfl

theorem quadBytes_getElem? (q : Quad) {k : Nat} (hk : k < 4) : (quadBytes q)[k]? = some (quadGet q k) := by
  interval_cases k <;> rfl

/-! ### Decimal digits -/

/-- A pair of decimal digits is one digit to base 100. -/
theorem ten_pow_two_mul (m : Nat) : 10 ^ (2 * m) = 100 ^ m := pow_mul 10 2 m

theorem digit_even (v m : Nat) : digit v (2 * m) = v / 100 ^ m % 100 % 10 := by
  rw [digit, ten_pow_two_mul, Nat.mod_mod_of_dvd _ (by decide : 10 ∣ 100)]

theorem digit_odd (v m : Nat) : digit v (2 * m + 1) = v / 100 ^ m % 100 / 10 := by
  rw [digit, pow_succ, ten_pow_two_mul, ← Nat.div_div_eq_div_mul]
  omega

/-- A pair byte shows the two decimal digits of its pair (40_bcd_codec.md R111). -/
theorem hasDigits_pairByte (v m : Nat) :
    HasDigits (pairByte (v / 100 ^ m % 100)) (digit v (2 * m + 1)) (digit v (2 * m)) := by
  have hpair : v / 100 ^ m % 100 < 100 := Nat.mod_lt _ (by decide)
  rw [digit_odd, digit_even]
  exact ⟨tensOf_pairByte _ hpair, onesOf_pairByte _ hpair⟩

/-! ### The loop of PACK -/

theorem quadGet_packLoop_of_le {n k : Nat} (hnk : n ≤ k) (hk : k < 4) (v : Nat) (q : Quad) :
    quadGet (packLoop n v q) k = quadGet q k := by
  induction n generalizing v q with
  | zero => rfl
  | succ n ih => rw [packLoop, ih (Nat.le_of_succ_le hnk), quadGet_quadSet_of_lt _ _ hnk hk]

/-- The byte with `m` bytes of the field after it holds pair `m` of the number (40_bcd_codec.md R112, R114). -/
theorem quadGet_packLoop_of_lt (k m : Nat) (h : k + m + 1 ≤ 4) (v : Nat) (q : Quad) :
    quadGet (packLoop (k + m + 1) v q) k = pairByte (v / 100 ^ m % 100) := by
  induction m generalizing v q with
  | zero => rw [packLoop, quadGet_packLoop_of_le le_rfl h, quadGet_quadSet_same, pow_zero, Nat.div_one]
  | succ m ih =>
    rw [packLoop, ← Nat.add_assoc k m 1, ih (Nat.le_of_succ_le h), Nat.div_div_eq_div_mul, ← pow_succ']

theorem quadGet_packField_of_le {n k : Nat} (hnk : n ≤ k) (hk : k < 4) (v : Nat) : quadGet (packField n v) k = 0 :=
  (quadGet_packLoop_of_le hnk hk v _).trans (quadGet_zero k)

/-- The digits of byte `k` of a packed field of `n` bytes (40_bcd_codec.md R114). -/
theorem hasDigits_packField {n k : Nat} (hk : k < n) (hn : n ≤ 4) (v : Nat) :
    HasDigits (quadGet (packField n v) k) (digit v (2 * n - 1 - 2 * k)) (digit v (2 * n - 2 - 2 * k)) := by
  obtain ⟨m, rfl⟩ := Nat.exists_eq_add_of_lt hk
  rw [packField, quadGet_packLoop_of_lt k m hn, show 2 * (k + m + 1) - 1 - 2 * k = 2 * m + 1 by omega,
    show 2 * (k + m + 1) - 2 - 2 * k = 2 * m by omega]
  exact hasDigits_pairByte v m

/-- The loop takes `n` pairs off the number and sees nothing above them (40_bcd_codec.md R113). -/
theorem packLoop_mod (n v : Nat) (q : Quad) : packLoop n (v % 100 ^ n) q = packLoop n v q := by
  induction n generalizing v q with
  | zero => rfl
  | succ n ih =>
    have hlow : v % 100 ^ (n + 1) % 100 = v % 100 := Nat.mod_mod_of_dvd v (Dvd.intro_left _ rfl)
    have hrest : v % 100 ^ (n + 1) / 100 = v / 100 % 100 ^ n := by rw [pow_succ', Nat.mod_mul_right_div_self]
    rw [packLoop, packLoop, hlow, hrest, ih]

/-! ### The loop of UNPACK -/

/-- The loop is the sum over the bytes of the field (40_bcd_codec.md R116). -/
theorem fieldValue_take (q : Quad) {n : Nat} (hn : n ≤ 4) : fieldValue ((quadBytes q).take n) = unpackField q n := by
  induction n with
  | zero => rfl
  | succ n ih =>
    rw [List.take_add_one, quadBytes_getElem? q hn, fieldValue, List.foldl_append, ← fieldValue,
      ih (Nat.le_of_succ_le hn)]
    rfl

/-- Each byte adds at most `15*10 + 15` (40_bcd_codec.md R118). -/
theorem unpackField_le (q : Quad) (n : Nat) : 99 * unpackField q n ≤ 165 * (100 ^ n - 1) := by
  induction n with
  | zero => exact le_rfl
  | succ n ih =>
    have htens := tensOf_lt (quadGet q n)
    have hones := onesOf_lt (quadGet q n)
    have hpos : 0 < 100 ^ n := by positivity
    rw [unpackField, pow_succ]
    omega

/-- A field of decimal pairs counts below `100^n` (40_bcd_codec.md R118). -/
theorem unpackField_decimal_lt {q : Quad} {n : Nat} (h : ∀ k, k < n → DecimalPair (quadGet q k)) :
    unpackField q n < 100 ^ n := by
  induction n with
  | zero => exact Nat.one_pos
  | succ n ih =>
    have hrest := ih fun k hk => h k (Nat.lt_succ_of_lt hk)
    obtain ⟨htens, hones⟩ : tensOf (quadGet q n) ≤ 9 ∧ onesOf (quadGet q n) ≤ 9 := h n (Nat.lt_succ_self n)
    rw [unpackField, pow_succ]
    omega

/-! ### The two loops against each other -/

/-- Unpacking a packed field gives back the pairs that fitted (40_bcd_codec.md R119). -/
theorem unpackField_packLoop {n : Nat} (hn : n ≤ 4) (v : Nat) (q : Quad) :
    unpackField (packLoop n v q) n = v % 100 ^ n := by
  induction n generalizing v q with
  | zero => exact (Nat.mod_one v).symm
  | succ n ih =>
    have hpair : v % 100 < 100 := Nat.mod_lt _ (by decide)
    rw [packLoop, unpackField, ih (Nat.le_of_succ_le hn), quadGet_packLoop_of_le le_rfl hn, quadGet_quadSet_same,
      tensOf_pairByte _ hpair, onesOf_pairByte _ hpair, pow_succ', Nat.mod_mul]
    omega

/-- Packing the value of a decimal field gives back its bytes (40_bcd_codec.md R120). -/
theorem quadGet_packLoop_unpackField {q : Quad} {n : Nat} (hn : n ≤ 4)
    (h : ∀ k, k < n → DecimalPair (quadGet q k)) (r : Quad) {k : Nat} (hk : k < n) :
    quadGet (packLoop n (unpackField q n) r) k = quadGet q k := by
  induction n generalizing r with
  | zero => exact absurd hk (Nat.not_lt_zero k)
  | succ n ih =>
    obtain ⟨htens, hones⟩ : tensOf (quadGet q n) ≤ 9 ∧ onesOf (quadGet q n) ≤ 9 := h n (Nat.lt_succ_self n)
    have hrest : unpackField q (n + 1) / 100 = unpackField q n := by rw [unpackField]; omega
    have hlow : unpackField q (n + 1) % 100 = tensOf (quadGet q n) * 10 + onesOf (quadGet q n) := by
      rw [unpackField]; omega
    rw [packLoop, hrest, hlow, pairByte_of_decimal _ htens hones]
    rcases Nat.lt_succ_iff_lt_or_eq.1 hk with hlt | rfl
    · exact ih (Nat.le_of_succ_le hn) (fun j hj => h j (Nat.lt_succ_of_lt hj)) _ hlt
    · rw [quadGet_packLoop_of_le le_rfl hn, quadGet_quadSet_same]

/-! ### The digit count of an instruction (40_bcd_codec.md R110) -/

theorem digitsLegal_iff (d : Nibble) : digitsLegal d = true ↔ LegalDigits d := by
  simp [digitsLegal, Config.digitsLegal, LegalDigits]

theorem fieldBytes_le_four {d : Nibble} (h : LegalDigits d) : fieldBytes d ≤ 4 := by
  rcases h with rfl | rfl | rfl | rfl <;> decide

theorem toNat_eq_two_mul_fieldBytes {d : Nibble} (h : LegalDigits d) : d.toNat = 2 * fieldBytes d := by
  rcases h with rfl | rfl | rfl | rfl <;> rfl

theorem ten_pow_toNat {d : Nibble} (h : LegalDigits d) : 10 ^ d.toNat = 100 ^ fieldBytes d := by
  rw [toNat_eq_two_mul_fieldBytes h, ten_pow_two_mul]

/-! ### PACK and UNPACK -/

theorem exec_pack_legal {d : Nibble} (h : LegalDigits d) (s : State) : exec (.pack d) s = .next (packOp d s) :=
  congrArg Host.Outcome.next (if_pos ((digitsLegal_iff d).2 h))

theorem exec_unpack_legal {d : Nibble} (h : LegalDigits d) (s : State) : exec (.unpack d) s = .next (unpackOp d s) :=
  congrArg Host.Outcome.next (if_pos ((digitsLegal_iff d).2 h))

theorem packOp_bcd (d : Nibble) (s : State) : (packOp d s).bcd = packField (fieldBytes d) s.value.toNat := rfl

/-- The sum fits VALUE, so the register holds it whole (40_bcd_codec.md R118). -/
theorem unpackOp_value {d : Nibble} (h : LegalDigits d) (s : State) :
    (unpackOp d s).value.toNat = unpackField s.bcd (fieldBytes d) :=
  (BitVec.toNat_ofNat _ _).trans (Nat.mod_eq_of_lt (unpackField_lt _ _ (fieldBytes_le_four h)))

theorem sameBuffer_packOp (d : Nibble) (s : State) : SameBuffer s (packOp d s) := readBuf_congr s _ rfl rfl

theorem sameBuffer_unpackOp (d : Nibble) (s : State) : SameBuffer s (unpackOp d s) := readBuf_congr s _ rfl rfl

theorem sameBuffer_withErr (s : State) (c : ErrCode) : SameBuffer s (withErr s c) := readBuf_congr s _ rfl rfl

/-- Settles O1: the digits of each byte of the field, the zero bytes after it, and the error of an illegal count. -/
theorem packWritesDigitsOfValue : Obligations.PackWritesDigitsOfValue := by
  intro s d
  refine ⟨fun hd => ⟨packOp d s, exec_pack_legal hd s, fun k hk => ?_, fun k hnk hk => ?_, rfl, sameBuffer_packOp d s⟩,
    fun hd => ⟨exec_pack_illegal (mt (digitsLegal_iff d).1 hd) s, sameBuffer_withErr s _⟩⟩
  · rw [packOp_bcd, toNat_eq_two_mul_fieldBytes hd]
    exact hasDigits_packField hk (fieldBytes_le_four hd) _
  · exact quadGet_packField_of_le hnk hk _

/-- Settles O2: the loop sees `VALUE` only modulo `100^n`. -/
theorem packTruncatesModuloTenToTheD : Obligations.PackTruncatesModuloTenToTheD := by
  intro s d hd
  refine ⟨_, _, exec_pack_legal hd s, exec_pack_legal hd _, ?_, rfl, rfl⟩
  have hfits : s.value.toNat % 10 ^ d.toNat < 2 ^ 32 := (Nat.mod_le _ _).trans_lt s.value.isLt
  rw [packOp_bcd, packOp_bcd, BitVec.toNat_ofNat, Nat.mod_eq_of_lt hfits, ten_pow_toNat hd, packField, packField,
    packLoop_mod]

/-- Settles O3: the loop is the sum over the bytes of the field, and the register holds it whole. -/
theorem unpackWritesFieldValue : Obligations.UnpackWritesFieldValue := by
  intro s d
  refine ⟨fun hd => ⟨unpackOp d s, exec_unpack_legal hd s, ?_, rfl, sameBuffer_unpackOp d s⟩,
    fun hd => ⟨exec_unpack_illegal (mt (digitsLegal_iff d).1 hd) s, sameBuffer_withErr s _⟩⟩
  exact (unpackOp_value hd s).trans (fieldValue_take s.bcd (fieldBytes_le_four hd)).symm

/-- Settles O4: the two bounds of the sum, for any nibbles and for decimal pairs. -/
theorem unpackStaysBelowItsBound : Obligations.UnpackStaysBelowItsBound := by
  intro s d hd
  refine ⟨_, exec_unpack_legal hd s, ?_, fun hdec => ?_⟩
  · rw [unpackOp_value hd]
    exact unpackField_le s.bcd (fieldBytes d)
  · rw [unpackOp_value hd, ten_pow_toNat hd]
    exact Nat.le_pred_of_lt (unpackField_decimal_lt hdec)

/-- PACK and then UNPACK keep the digits that fit (40_bcd_codec.md R119). -/
theorem unpackOp_packOp_value {d : Nibble} (h : LegalDigits d) (s : State) :
    (unpackOp d (packOp d s)).value.toNat = s.value.toNat % 10 ^ d.toNat := by
  rw [unpackOp_value h, packOp_bcd, packField, unpackField_packLoop (fieldBytes_le_four h), ten_pow_toNat h]

/-- Settles O5: unpacking the packed field gives `VALUE` modulo `100^n`. -/
theorem packThenUnpackReturnsValue : Obligations.PackThenUnpackReturnsValue := by
  intro s d hd
  have hvalue := unpackOp_packOp_value hd s
  exact ⟨_, _, exec_pack_legal hd s, exec_unpack_legal hd _, hvalue,
    fun hlt => BitVec.eq_of_toNat_eq (hvalue.trans (Nat.mod_eq_of_lt hlt))⟩

/-- UNPACK and then PACK write the field of the sum (40_bcd_codec.md R120). -/
theorem packOp_unpackOp_bcd {d : Nibble} (h : LegalDigits d) (s : State) :
    (packOp d (unpackOp d s)).bcd = packField (fieldBytes d) (unpackField s.bcd (fieldBytes d)) := by
  rw [packOp_bcd, unpackOp_value h]

/-- Settles O6: packing the sum gives back a decimal field; the byte 1A counts 20. -/
theorem unpackThenPackKeepsDecimalField : Obligations.UnpackThenPackKeepsDecimalField := by
  refine ⟨fun s d hd => ⟨_, _, exec_unpack_legal hd s, exec_pack_legal hd _, ?field, ?rest⟩, fun s hbyte => ?sample⟩
  case field =>
    intro hdec k hk
    rw [packOp_unpackOp_bcd hd]
    exact quadGet_packLoop_unpackField (fieldBytes_le_four hd) hdec _ hk
  case rest =>
    intro k hnk hk
    rw [packOp_unpackOp_bcd hd]
    exact quadGet_packField_of_le hnk hk _
  case sample =>
    have htwo : LegalDigits 2 := .inl rfl
    have hsum : unpackField s.bcd 1 = 20 := by simp only [unpackField, quadGet, hbyte]; decide
    refine ⟨_, _, exec_unpack_legal htwo s, exec_pack_legal htwo _, ?_⟩
    rw [packOp_unpackOp_bcd htwo, show fieldBytes 2 = 1 from rfl, hsum]
    decide

end Sys2Proof.Machine
end

section
/-! The frame unit: what BUILD latches, what CHECK compares and what SEND hands to the transport (41_frame_codec.md R130
to R139, 70_reset_and_hazards.md R261). -/

namespace Sys2Proof.Machine

open Sys2Proof.Claims

/-! ### The three commands as functions of the state -/

theorem exec_build (s : State) : exec .build s = .next (buildOp s) := rfl

theorem exec_check (s : State) : exec .check s = .next (checkOp s) := rfl

theorem exec_send_opened {s : State} (h : s.env.opened = true) : exec .send s = .next (sendOp s) :=
  withTransport_opened s sendOp h

theorem sameBuffer_access {w : State → State} (hw : HostAccess w) (s : State) : SameBuffer s (w s) :=
  (keepsCells_access w hw s (.refl s)).sameBuffer

theorem sameBuffer_sendOp (s : State) : SameBuffer s (sendOp s) :=
  (keepsCells_sendOp s (.refl s)).sameBuffer

/-! ### BUILD -/

/-- What P0 to P3 and OP hold, as a frame: the sources of the latched one (41_frame_codec.md R130). -/
def sources (s : State) : Frame := ⟨s.p.b0, s.p.b1, s.p.b2, s.p.b3, s.op⟩

/-- BUILD latches the sources and leaves them (41_frame_codec.md R131). -/
theorem buildOp_frame (s : State) : (buildOp s).frame = sources (buildOp s) := rfl

@[simp] theorem buildOp_fvalid (s : State) : (buildOp s).status.fvalid = true := rfl

/-- Settles O7: the latched frame is the sources, and BUILD is an access of the host, which stores nothing in BUF. -/
theorem buildLatchesParametersAndOpcode : Obligations.BuildLatchesParametersAndOpcode := fun s =>
  ⟨buildOp s, exec_build s, rfl, rfl, sameBuffer_access .build s⟩

/-! ### CHECK -/

@[simp] theorem checkOp_fok (s : State) : (checkOp s).status.fok = frameMatches s := rfl

theorem frameMatches_iff (s : State) :
    frameMatches s = true ↔ s.status.fvalid = true ∧ s.frame = sources s := by
  rw [frameMatches, Bool.and_eq_true, beq_iff_eq]
  rfl

theorem frame_eq_sources_iff (f : Frame) (s : State) : f = sources s ↔
    f.b0 = s.p.b0 ∧ f.b1 = s.p.b1 ∧ f.b2 = s.p.b2 ∧ f.b3 = s.p.b3 ∧ f.opc = s.op := by
  cases f
  rw [sources, Frame.mk.injEq]

/-- The sources determine the registers they come from. -/
theorem registers_eq_of_sources_eq {s t : State} (h : sources s = sources t) : s.p = t.p ∧ s.op = t.op :=
  ⟨congrArg frameParams h, congrArg Frame.opc h⟩

/-- Settles O8: FOK is the comparison of the latched frame with its sources, byte by byte. -/
theorem checkComparesFrameWithSources : Obligations.CheckComparesFrameWithSources := by
  intro s
  refine ⟨checkOp s, exec_check s, ?_, rfl, sameBuffer_access .check s⟩
  rw [checkOp_fok, frameMatches_iff, frame_eq_sources_iff]

/-! ### A stale frame -/

theorem write8_ok {num : Byte} {v : Word} {put : Byte → State} {w : State} (h : write8 num v put = .ok w) :
    ∃ b, w = put b := by
  unfold write8 at h
  split at h <;> cases h
  exact ⟨_, rfl⟩

/-- A write to one of 0x08 to 0x0C writes one byte of P, or OP (10_state.md R21). -/
theorem writeReg_source_ok {s w : State} {num : Byte} {v : Word} (hlo : 0x08 ≤ num.toNat) (hhi : num.toNat ≤ 0x0C)
    (h : writeReg s num v = .ok w) : (∃ k b, w = wrP k b s) ∨ ∃ b, w = wrOp b s := by
  have hnum : num.toNat = 0x08 ∨ num.toNat = 0x09 ∨ num.toNat = 0x0A ∨ num.toNat = 0x0B ∨ num.toNat = 0x0C := by omega
  rcases hnum with hn | hn | hn | hn | hn <;> simp only [writeReg, hn] at h
  · exact .inl ⟨0, write8_ok h⟩
  · exact .inl ⟨1, write8_ok h⟩
  · exact .inl ⟨2, write8_ok h⟩
  · exact .inl ⟨3, write8_ok h⟩
  · exact .inr (write8_ok h)

/-- A write to a source leaves the latched frame as it is (70_reset_and_hazards.md R261). -/
theorem writeReg_source_frame {s w : State} {num : Byte} {v : Word} (hlo : 0x08 ≤ num.toNat) (hhi : num.toNat ≤ 0x0C)
    (h : writeReg s num v = .ok w) : w.frame = s.frame := by
  rcases writeReg_source_ok hlo hhi h with ⟨k, b, rfl⟩ | ⟨b, rfl⟩
  · exact wrP_frame k b s
  · exact wrOp_frame b s

/-- CHECK right after BUILD finds the frame equal to its sources (41_frame_codec.md R134). -/
theorem frameMatches_buildOp (s : State) : frameMatches (buildOp s) = true :=
  (frameMatches_iff _).2 ⟨buildOp_fvalid s, buildOp_frame s⟩

/-- Where the frame is still the one latched from `s` and a source has changed, the comparison fails
(41_frame_codec.md R134). -/
theorem frameMatches_stale {s w : State} (hlatched : w.frame = sources s) (hchanged : w.p ≠ s.p ∨ w.op ≠ s.op) :
    frameMatches w = false := by
  refine Bool.eq_false_iff.2 fun hmatch => ?_
  obtain ⟨-, heq⟩ := (frameMatches_iff w).1 hmatch
  obtain ⟨hp, hop⟩ := registers_eq_of_sources_eq (heq.symm.trans hlatched)
  exact hchanged.elim (· hp) (· hop)

/-- Settles O9: the write leaves the latched frame, so the frame no longer equals the changed sources. -/
theorem checkDetectsStaleFrame : Obligations.CheckDetectsStaleFrame := by
  intro s
  refine ⟨_, _, exec_build s, exec_check _, frameMatches_buildOp s, fun num v w hlo hhi hwrite => ?_⟩
  have hframe : w.frame = (buildOp s).frame := writeReg_source_frame hlo hhi hwrite
  have hlatched : w.frame = sources (buildOp s) := hframe.trans (buildOp_frame s)
  exact ⟨hframe, fun hchanged => ⟨_, exec_check w, frameMatches_stale hlatched hchanged⟩⟩

/-! ### SEND -/

/-- Settles O10: an unbuilt frame is an error and no request; a built one is one request and one answer. -/
theorem sendHandsFiveBytesToTransport : Obligations.SendHandsFiveBytesToTransport := by
  intro s hopened
  refine ⟨fun hunbuilt => ⟨?_, sameBuffer_withErr s _⟩, fun hbuilt answer hanswer =>
    ⟨sendOp s, exec_send_opened hopened, ?_, sameBuffer_sendOp s⟩⟩
  · rw [exec_send_opened hopened, sendOp_unbuilt s hunbuilt]
    rfl
  · rw [sendOp_built s hbuilt, hanswer]
    cases answer with
    | ok | error => rfl

/-- The bytes on the wire after one more request. -/
theorem wireBytes_recordTx (f : Frame) (fate : TxFate) (e : Transport) :
    wireBytes (recordTx f fate e) = wireBytes e ++ recordBytes ⟨f, fate⟩ := by
  simp only [wireBytes, recordTx, List.flatMap_append, List.flatMap_singleton]

/-- After a hard error the wire has the bytes that were written before it (41_frame_codec.md R139). -/
theorem sendOp_failed {s : State} {n : Nat} (hbuilt : s.status.fvalid = true) (hanswer : txAnswer s.env = .error n) :
    (sendOp s).status.err = .txError ∧
      wireBytes (sendOp s).env = wireBytes s.env ++ (frameBytes s.frame).take n := by
  rw [sendOp_built s hbuilt, hanswer]
  exact ⟨rfl, wireBytes_recordTx s.frame (.failed n) (afterTx s.env)⟩

/-- Settles O11: the answer says how many bytes were written, and no more than five can be. -/
theorem failedSendLeavesAPrefixOnTheWire : Obligations.FailedSendLeavesAPrefixOnTheWire := by
  intro s hopened hbuilt
  refine ⟨fun n hanswer => ⟨_, min n 5, exec_send_opened hopened, Nat.min_le_right n 5, ?_⟩, fun k _ =>
    ⟨_, exec_send_opened hopened, sendOp_failed hbuilt rfl⟩⟩
  rw [(sendOp_failed hbuilt hanswer).2]
  exact congrArg _ List.take_eq_take_min

end Sys2Proof.Machine
end

section
/-! The response accumulator: its timer and its wait, the steps of an ACC and what each answer of the environment does
to them (42_response_accumulator.md R146 to R169). -/

namespace Sys2Proof.Machine

open Sys2Proof.Claims Sys2Proof.Safety

/-! ### The timer (42_response_accumulator.md R160) -/

theorem timerTick_toNat (t : Half) : (timerTick t).toNat = t.toNat - 1 := by
  unfold timerTick
  split
  · rename_i h
    rw [h]
    rfl
  · bv_omega

theorem timerElapse_toNat (n : Nat) (t : Half) : (timerElapse n t).toNat = t.toNat - n := by
  have ht := t.isLt
  rw [timerElapse, BitVec.toNat_ofNat]
  omega

theorem timerElapse_zero (t : Half) : timerElapse 0 t = t :=
  BitVec.eq_of_toNat_eq (timerElapse_toNat 0 t)

theorem timerElapse_succ (n : Nat) (t : Half) : timerElapse (n + 1) t = timerTick (timerElapse n t) :=
  BitVec.eq_of_toNat_eq (by rw [timerTick_toNat, timerElapse_toNat, timerElapse_toNat, Nat.sub_sub])

/-! ### The outcome of a wait (42_response_accumulator.md R160, R162) -/

theorem eventInTime_iff (a : WaitAnswer) (t : Half) : eventInTime a t = true ↔
    (a.hardError = true ∨ a.ready = true ∨ a.transient = true) ∧ a.elapsed ≤ t.toNat := by
  simp only [eventInTime, Bool.and_eq_true, Bool.or_eq_true, decide_eq_true_eq, or_assoc]

/-- An event no later than the timer reaches 0: the highest condition present. -/
theorem waitOutcome_inTime {a : WaitAnswer} {t : Half} (h : eventInTime a t = true) :
    waitOutcome a t = if a.hardError then .hardError else if a.ready then .ready else .transient :=
  if_pos h

/-- No event by then: the deadline. -/
theorem waitOutcome_late {a : WaitAnswer} {t : Half} (h : ¬ eventInTime a t = true) : waitOutcome a t = .timeout :=
  if_neg h

theorem waitOutcome_eq_timeout_iff (a : WaitAnswer) (t : Half) :
    waitOutcome a t = .timeout ↔ ¬ eventInTime a t = true := by
  refine ⟨fun ho hin => ?_, waitOutcome_late⟩
  rw [waitOutcome_inTime hin] at ho
  split at ho
  · cases ho
  · split at ho <;> cases ho

/-- A wait that ends in `transient` had that condition and none above it. -/
theorem transient_of_waitOutcome {a : WaitAnswer} {t : Half} (h : waitOutcome a t = .transient) :
    a.hardError = false ∧ a.ready = false ∧ a.transient = true := by
  by_cases hin : eventInTime a t = true
  · obtain ⟨hevent, -⟩ := (eventInTime_iff a t).1 hin
    rw [waitOutcome_inTime hin] at h
    cases hh : a.hardError <;> cases hr : a.ready <;> simp [hh, hr] at h hevent
    exact ⟨rfl, rfl, hevent⟩
  · rw [waitOutcome_late hin] at h
    cases h

/-- The scripted wait for an outcome ends in it, whatever the timer. -/
theorem waitOutcome_waitThatEnds (o : WaitOutcome) (t : Half) : waitOutcome (waitThatEnds o) t = o := by
  cases o with
  | timeout => exact waitOutcome_late fun h => by simp [eventInTime_iff, waitThatEnds] at h
  | ready | transient | hardError =>
    exact waitOutcome_inTime ((eventInTime_iff _ t).2 ⟨by simp [waitThatEnds], Nat.zero_le _⟩)

/-- Settles O27: by whether something happens before the timer has passed 0. -/
theorem waitOutcomeFollowsPriority : Obligations.WaitOutcomeFollowsPriority := by
  intro w t
  refine ⟨fun hle => ⟨fun hh => ?_, fun hh hr => ?_, fun hh hr ht => ?_⟩, fun hlt => ?_, fun hh hr ht => ?_⟩
  · rw [waitOutcome_inTime ((eventInTime_iff w t).2 ⟨.inl hh, hle⟩), if_pos hh]
  · rw [waitOutcome_inTime ((eventInTime_iff w t).2 ⟨.inr (.inl hr), hle⟩)]
    simp [hh, hr]
  · rw [waitOutcome_inTime ((eventInTime_iff w t).2 ⟨.inr (.inr ht), hle⟩)]
    simp [hh, hr]
  · exact waitOutcome_late fun h => Nat.not_le.2 hlt ((eventInTime_iff w t).1 h).2
  · exact waitOutcome_late fun h => by simp [eventInTime_iff, hh, hr, ht] at h

/-- Settles O28: on numbers, ticks are truncated subtraction; at a timeout all ticks of the timer have elapsed. -/
theorem timerCountsDownAndStopsAtZero : Obligations.TimerCountsDownAndStopsAtZero := by
  refine ⟨timerTick_toNat, timerElapse_zero, timerElapse_succ, fun w t ho => ?_, fun w t ho => ?_⟩
  · rw [timerAtEnd, if_neg ((waitOutcome_eq_timeout_iff w t).1 ho)]
    exact BitVec.eq_of_toNat_eq ((timerElapse_toNat _ t).trans (Nat.sub_self _))
  · exact if_pos (not_not.1 (mt waitOutcome_late ho))

/-! ### The start (42_response_accumulator.md R147, R148, R169) -/

theorem exec_acc_opened {s : State} (h : s.env.opened = true) : exec .acc s = .next (accStart s) :=
  withTransport_opened s accStart h

/-- Settles O25: the three forms of the start. -/
theorem accStartsOrEndsAtOnce : Obligations.AccStartsOrEndsAtOnce := by
  intro s hopened
  rw [exec_acc_opened hopened]
  refine ⟨fun h => ?_, fun _ hcap hmin => ?_, fun hle hcap hmin => ?_⟩
  · rw [accStart_illegal s h]
    rfl
  · rw [accStart_done s hcap hmin]
    rfl
  · rw [accStart_waits s hcap hle hmin]
    rfl

/-! ### A step from WAIT (42_response_accumulator.md R150 to R152, R157) -/

/-- The step of a waiting ACC by the outcome of the wait. -/
theorem step_wait_outcome {s : State} {o : WaitOutcome} (hreset : s.resetIn = []) (hwait : s.rstate = .wait)
    (h : waitOutcome (waitAnswer s.env) s.timer = o) : step s = .next (onWaitOutcome o (afterWaiting s)) := by
  rw [step_wait s hreset hwait, waitStep, h]

/-- A wait that ends in `transient` leaves the ACC waiting with a full timer (42_response_accumulator.md R152). -/
theorem step_wait_transient {s : State} (hreset : s.resetIn = []) (hwait : s.rstate = .wait)
    (h : waitOutcome (waitAnswer s.env) s.timer = .transient) :
    step s = .next { s with env := afterWait s.env, timer := s.timeout } := by
  rw [step_wait_outcome hreset hwait h]
  simp only [onWaitOutcome, enterWait, afterWaiting, hwait]

/-- Settles O26: each outcome of the wait has its own action. -/
theorem waitOutcomesActAsStated : Obligations.WaitOutcomesActAsStated := by
  rintro s hreset hwait w rfl
  exact ⟨step_wait_outcome hreset hwait, step_wait_outcome hreset hwait, step_wait_transient hreset hwait,
    step_wait_outcome hreset hwait⟩

/-- A scripted wait is answered by the first entry of the script and uses it up (log 1). -/
theorem waitAnswer_cons {e : Transport} {w : WaitAnswer} {ws : List WaitAnswer} (h : e.waits = w :: ws) :
    waitAnswer e = w ∧ afterWait e = { e with waits := ws } := by
  simp only [waitAnswer, afterWait, drawsAfter, h, List.tail_cons, and_self]

/-- `n` transient waits use up `n` answers and, if there was one, leave a full timer; nothing else changes
(42_response_accumulator.md R152, R164). -/
theorem run_transients (n : Nat) (s : State) (ws : List WaitAnswer) (hreset : s.resetIn = []) (hwait : s.rstate = .wait)
    (hwaits : s.env.waits = List.replicate n (waitThatEnds .transient) ++ ws) :
    Host.Core.run Sys2Proof.core n s = .next
      { s with timer := if n = 0 then s.timer else s.timeout, env := { s.env with waits := ws } } := by
  induction n generalizing s with
  | zero =>
    cases hwaits
    rfl
  | succ n ih =>
    obtain ⟨hanswer, hafter⟩ := waitAnswer_cons hwaits
    have hstep := step_wait_transient hreset hwait (by rw [hanswer, waitOutcome_waitThatEnds])
    have hrest := ih { s with env := afterWait s.env, timer := s.timeout } hreset hwait
      (congrArg Transport.waits hafter)
    rw [core_run_succ n _ _ hstep, hrest]
    simp only [hafter, ite_self, Nat.add_one_ne_zero, if_false]

/-- Settles O33: the state after `n` transient waits is known. -/
theorem transientsKeepAccWaiting : Obligations.TransientsKeepAccWaiting := by
  intro n s ws hreset hwait hwaits
  exact ⟨_, run_transients n s ws hreset hwait hwaits, rfl, fun hn => if_neg (Nat.ne_of_gt hn)⟩

/-! ### A step from READ (42_response_accumulator.md R153 to R156) -/

/-- The bounds under which a sound ACC runs, on numbers (42_response_accumulator.md R147, R149). -/
theorem running_bounds {s : State} (hi : Inv s) (hruns : s.rstate ≠ .idle) :
    s.offset.toNat < s.minlen.toNat ∧ s.minlen.toNat ≤ s.maxlen.toNat ∧ s.maxlen.toNat ≤ 128 := by
  obtain ⟨-, hacc, -⟩ := (inv_iff s).1 hi
  exact hacc hruns

/-- The state in which the answer of a read is taken: its bytes are consumed from the transport. -/
def afterReading (s : State) : State := { s with env := afterRead (readCap s) s.env }

/-- The step of a reading ACC where there is room, by the answer of the read. -/
theorem step_read_answer {s : State} {a : ReadAnswer} (hreset : s.resetIn = []) (hread : s.rstate = .read)
    (hroom : s.offset.toNat < s.maxlen.toNat) (hcap : s.maxlen.toNat ≤ 128) (h : readAnswer (readCap s) s.env = a) :
    step s = .next (onReadAnswer a (afterReading s)) := by
  rw [step_read s hreset hread, readStep_room s hroom hcap, h]
  rfl

/-- One byte or more: they are stored and the loop test follows (42_response_accumulator.md R156). -/
theorem onReadAnswer_bytes {bs : List Byte} (h : bs ≠ []) (s : State) :
    onReadAnswer (.bytes bs) s = loopTest (storeRead bs s) := by
  cases bs with
  | nil => exact absurd rfl h
  | cons b bs => rfl

/-- What the loop test leaves unchanged (42_response_accumulator.md R149, R158). -/
theorem loopTest_frame (s : State) : loopTest s =
    { s with
      buf := (loopTest s).buf, offset := (loopTest s).offset, rstate := (loopTest s).rstate
      timer := (loopTest s).timer, count := (loopTest s).count, status := (loopTest s).status } := by
  unfold loopTest
  split <;> rfl

theorem loopTest_offset (s : State) : (loopTest s).offset = s.offset := by
  unfold loopTest
  split <;> rfl

theorem readBuf_loopTest (s : State) (i : Nat) : readBuf (loopTest s) i = readBuf s i := by
  unfold loopTest
  split <;> rfl

/-- A read stays within the room asked for, and `OFFSET` advances by what it returned (42_response_accumulator.md R153,
R156). -/
theorem read_within_room {s : State} {bs : List Byte} (hroom : s.offset.toNat < s.maxlen.toNat)
    (hcap : s.maxlen.toNat ≤ 128) (h : readAnswer (readCap s) s.env = .bytes bs) :
    s.offset.toNat + bs.length ≤ s.maxlen.toNat ∧
    (storeRead bs (afterReading s)).offset.toNat = s.offset.toNat + bs.length := by
  have hlen : bs.length ≤ s.maxlen.toNat - s.offset.toNat := readAnswer_length _ _ _ h
  exact ⟨by omega, storeRead_offset bs (afterReading s) (show s.offset.toNat + bs.length < 256 by omega)⟩

/-- The bytes of a read are at `BUF[OFFSET..]` in order (42_response_accumulator.md R156). -/
theorem readBuf_storeRead_stored (bs : List Byte) (s : State) (j : Nat) (h : j < bs.length) :
    readBuf (storeRead bs s) (s.offset.toNat + j) = bs[j] := by
  simp [readBuf_storeRead, h]

/-- Every other byte of `BUF` is as before (42_response_accumulator.md R156). -/
theorem readBuf_storeRead_kept (bs : List Byte) (s : State) (a : Nat)
    (h : a < s.offset.toNat ∨ s.offset.toNat + bs.length ≤ a) : readBuf (storeRead bs s) a = readBuf s a := by
  rw [readBuf_storeRead]
  split
  · rw [List.getElem?_eq_none (by omega)]
    rfl
  · rfl

/-- Settles O29: the read has room in a sound state, and each answer has its own action. -/
theorem readAnswersActAsStated : Obligations.ReadAnswersActAsStated := by
  rintro s hi hreset hread cap rfl
  obtain ⟨hlt, hle, hcap⟩ := running_bounds hi (by rw [hread]; decide)
  have hroom : s.offset.toNat < s.maxlen.toNat := by omega
  refine ⟨by omega, step_read_answer hreset hread hroom hcap, step_read_answer hreset hread hroom hcap,
    fun bs hbs ha => ?_⟩
  obtain ⟨-, hoff⟩ := read_within_room hroom hcap ha
  refine ⟨readAnswer_length _ _ _ ha, loopTest (storeRead bs (afterReading s)), ?step, ?offset,
    fun j hj => ?stored, fun a hout => ?kept, fun hmore => ?waits, fun hend => ?ends, loopTest_frame _⟩
  case step => rw [step_read_answer hreset hread hroom hcap ha, onReadAnswer_bytes hbs]
  case offset => rw [loopTest_offset, hoff]
  case stored =>
    rw [readBuf_loopTest]
    exact readBuf_storeRead_stored bs (afterReading s) j hj
  case kept =>
    rw [readBuf_loopTest]
    exact readBuf_storeRead_kept bs (afterReading s) a hout
  case waits =>
    rw [loopTest_wait _ (by rw [hoff]; exact hmore)]
    exact ⟨rfl, rfl, rfl, rfl⟩
  case ends =>
    rw [loopTest_done _ (by rw [hoff]; exact hend)]
    exact ⟨rfl, rfl, rfl, rfl⟩

theorem pendingBytes_leftover (cap : Nat) (bs : List Byte) (rest : List ReadAnswer) :
    pendingBytes (leftover cap (.bytes bs) ++ rest) = bs.drop cap ++ pendingBytes rest := by
  rw [leftover]
  split
  · rfl
  · rw [List.drop_eq_nil_of_le (by omega)]
    rfl

/-- Settles O30: the bytes taken and the bytes left are a cut of the first delivery. -/
theorem readsAreConsecutiveBytes : Obligations.ReadsAreConsecutiveBytes := by
  intro e cap bs hne ha
  refine ⟨readAnswer_length cap e bs ha, ?_⟩
  obtain ⟨d, rest, hreads⟩ := List.exists_cons_of_ne_nil hne
  simp only [readAnswer, nextDelivery, hreads] at ha
  cases d with
  | error => cases ha
  | bytes l =>
    cases ha
    simp only [afterRead, nextDelivery, hreads, List.tail_cons, pendingBytes_leftover, pendingBytes]
    rw [← List.append_assoc, List.take_append_drop]

/-- Everything a read of a sound ACC can do (42_response_accumulator.md R153 to R156, R149). -/
theorem step_read_cases {s : State} (hi : Inv s) (hreset : s.resetIn = []) (hread : s.rstate = .read) :
    step s = .next (finish .hardError (afterReading s)) ∨ step s = .next (finish .closed (afterReading s)) ∨
    ∃ bs, 0 < bs.length ∧ s.offset.toNat + bs.length ≤ s.maxlen.toNat ∧
      (storeRead bs (afterReading s)).offset.toNat = s.offset.toNat + bs.length ∧
      (s.offset.toNat + bs.length < s.minlen.toNat ∧ step s = .next (enterWait (storeRead bs (afterReading s))) ∨
        s.minlen.toNat ≤ s.offset.toNat + bs.length ∧
          step s = .next (finish .minReached (storeRead bs (afterReading s)))) := by
  obtain ⟨hlt, hle, hcap⟩ := running_bounds hi (by rw [hread]; decide)
  have hroom : s.offset.toNat < s.maxlen.toNat := by omega
  cases ha : readAnswer (readCap s) s.env with
  | error => exact .inl (step_read_answer hreset hread hroom hcap ha)
  | bytes bs =>
    have hstep := step_read_answer hreset hread hroom hcap ha
    by_cases hbs : bs = []
    · subst hbs
      exact .inr (.inl hstep)
    · obtain ⟨hfits, hoff⟩ := read_within_room hroom hcap ha
      rw [onReadAnswer_bytes hbs] at hstep
      refine .inr (.inr ⟨bs, List.length_pos_iff.2 hbs, hfits, hoff, ?_⟩)
      by_cases hmore : s.offset.toNat + bs.length < s.minlen.toNat
      · exact .inl ⟨hmore, by rw [hstep, loopTest_wait _ (by rw [hoff]; exact hmore)]⟩
      · have hend := Nat.not_lt.1 hmore
        exact .inr ⟨hend, by rw [hstep, loopTest_done _ (by rw [hoff]; exact hend)]⟩

/-- Settles O34, by what ends the step: the wait's outcome, or the answer of the read. -/
theorem countAtEndFitsCause : Obligations.CountAtEndFitsCause := by
  intro s t hi hreset hruns h hidle
  obtain ⟨hlt, hle, hcap⟩ := running_bounds hi hruns
  cases hr : s.rstate with
  | idle => exact absurd hr hruns
  | wait =>
    rw [step_wait_outcome hreset hr rfl] at h
    cases h
    generalize waitOutcome (waitAnswer s.env) s.timer = o at hidle ⊢
    cases o with
    | ready | transient => cases hidle
    | timeout => exact .inr (.inl ⟨rfl, hlt, rfl⟩)
    | hardError => exact .inr (.inr (.inr ⟨rfl, rfl, rfl⟩))
  | read =>
    rcases step_read_cases hi hreset hr with hs | hs | ⟨bs, -, hfits, hoff, ⟨-, hs⟩ | ⟨hend, hs⟩⟩ <;>
      rw [hs] at h <;> cases h
    · exact .inr (.inr (.inr ⟨rfl, rfl, rfl⟩))
    · exact .inr (.inr (.inl ⟨rfl, hlt, rfl⟩))
    · cases hidle
    · exact .inl ⟨rfl, hend.trans_eq hoff.symm, hoff.trans_le hfits, rfl⟩

/-! ### No fault (42_response_accumulator.md R153; log 12) -/

theorem runNumber_not_fault (d : Nibble) (v : Nat) (opc : Byte) (s : State) (r : Fault) :
    runNumber d v opc s ≠ .fault r := by
  unfold runNumber
  split
  · exact withTransport_not_fault _ _ r
  · exact nofun

theorem runDump_not_fault (s : State) (r : Fault) : runDump s ≠ .fault r := by
  unfold runDump
  split
  · exact withTransport_not_fault _ _ r
  · exact nofun

theorem runCommand_not_fault (c : Byte) (s : State) (r : Fault) : runCommand c s ≠ .fault r := by
  rcases runCommand_uniform c with ⟨w, -, hc⟩ | hc | hc <;> rw [hc]
  · exact nofun
  · exact withTransport_not_fault _ _ r
  · exact withTransport_not_fault _ _ r

/-- No request of the host stores to the buffer, so none can store outside it. -/
theorem runRequest_not_fault (q : Request) (s : State) (r : Fault) : runRequest q s ≠ .fault r := by
  cases q with
  | rd num => rw [runRequest]; split <;> exact nofun
  | wr num v =>
    rw [runRequest]
    split
    · split
      · exact runCommand_not_fault _ _ r
      · exact nofun
    · exact nofun
  | rdbuf i => rw [runRequest]; split <;> exact nofun
  | frame f => rw [runRequest, runFrame_eq]; exact withTransport_not_fault _ _ r
  | tune n => exact runNumber_not_fault _ _ _ s r
  | ctcssTone n => exact runNumber_not_fault _ _ _ s r
  | rptOfs n => exact runNumber_not_fault _ _ _ s r
  | flush => exact withTransport_not_fault _ _ r
  | dump => exact runDump_not_fault (dumpClear s) r
  | dumpNext => exact runDump_not_fault _ r

/-- In a sound state a read has room, and nothing else can fault. -/
theorem advanceLive_not_fault {s : State} (hi : Inv s) (r : Fault) : advanceLive s ≠ .fault r := by
  cases hr : s.rstate with
  | wait => rw [advanceLive_wait s hr]; exact nofun
  | read =>
    obtain ⟨hlt, hle, hcap⟩ := running_bounds hi (by rw [hr]; decide)
    rw [advanceLive_read s hr, readStep_room s (by omega) hcap]
    exact nofun
  | idle =>
    cases ht : s.host.task with
    | some k => rw [advanceLive_task s k hr ht]; exact nofun
    | none =>
      cases hq : s.host.queue with
      | nil => rw [advanceLive_nothing s hr ht hq]; exact nofun
      | cons q rest => rw [advanceLive_request s q rest hr ht hq]; exact runRequest_not_fault q _ r

theorem advanceWithin_not_fault {s : State} (hi : Inv s) (ls : List Level) (r : Fault) :
    advanceWithin ls s ≠ .fault r := by
  rcases advanceWithin_cases ls s with ⟨sc, t, -, he⟩ | ⟨-, -, he⟩ | ⟨-, -, he⟩ <;> rw [he]
  · exact nofun
  · exact nofun
  · exact advanceLive_not_fault hi r

/-- Settles O57, by the reset input: the invariant does not speak of it, so a live step starts from a sound state. -/
theorem soundStatesNeverFault : Obligations.SoundStatesNeverFault := by
  intro s r hi
  have hpop : Inv (popReset s) := hi
  cases hreset : s.resetIn with
  | nil => rw [step_live s hreset]; exact advanceLive_not_fault hi r
  | cons x rest =>
    cases x with
    | off => rw [step_off s rest hreset]; exact advanceLive_not_fault hpop r
    | on => rw [step_on s rest hreset]; exact nofun
    | within ls => rw [step_within s ls rest hreset]; exact advanceWithin_not_fault hpop ls r

/-! ### The other units (42_response_accumulator.md R168) -/

/-- The operation does not read or write what FRMU and BCDU hold. -/
def IgnoresOtherUnits (g : State → State) : Prop :=
  ∀ v b q o f fv s, g (otherUnits v b q o f fv s) = otherUnits v b q o f fv (g s)

theorem ignoresOtherUnits_loopTest : IgnoresOtherUnits loopTest := by
  intro v b q o f fv s
  simp only [loopTest, apply_ite (otherUnits v b q o f fv)]
  rfl

theorem ignoresOtherUnits_accStart : IgnoresOtherUnits accStart := by
  intro v b q o f fv s
  have hlegal : accOperandsLegal (otherUnits v b q o f fv s) = accOperandsLegal s := rfl
  simp only [accStart, apply_ite (otherUnits v b q o f fv), hlegal]
  rw [← ignoresOtherUnits_loopTest]
  rfl

theorem ignoresOtherUnits_waitStep : IgnoresOtherUnits waitStep := by
  intro v b q o f fv s
  have houtcome : waitOutcome (waitAnswer (otherUnits v b q o f fv s).env) (otherUnits v b q o f fv s).timer =
      waitOutcome (waitAnswer s.env) s.timer := rfl
  rw [waitStep, waitStep, houtcome]
  cases waitOutcome (waitAnswer s.env) s.timer with
  | ready | timeout | transient | hardError => rfl

theorem ignoresOtherUnits_onReadAnswer (a : ReadAnswer) : IgnoresOtherUnits (onReadAnswer a) := by
  intro v b q o f fv s
  cases a with
  | error => rfl
  | bytes bs =>
    cases bs with
    | nil => rfl
    | cons c cs => exact ignoresOtherUnits_loopTest v b q o f fv (storeRead (c :: cs) s)

theorem readStep_otherUnits (v : Word) (b q : Quad) (o : Byte) (f : Frame) (fv : Bool) (s : State) :
    readStep (otherUnits v b q o f fv s) = mapNext (otherUnits v b q o f fv) (readStep s) := by
  simp only [readStep, apply_ite (mapNext (otherUnits v b q o f fv))]
  rw [mapNext, ← ignoresOtherUnits_onReadAnswer]
  rfl

/-- Settles O35: the start, the wait and the read each leave the other units alone. -/
theorem accIsIndependentOfOtherUnits : Obligations.AccIsIndependentOfOtherUnits := by
  intro v b q o f fv s
  refine ⟨?_, fun hreset hruns => ?_⟩
  · show withTransport _ accStart = mapNext _ (withTransport s accStart)
    rw [withTransport, withTransport, apply_ite (mapNext _), ignoresOtherUnits_accStart]
    rfl
  · have hreset' : (otherUnits v b q o f fv s).resetIn = [] := hreset
    cases hr : s.rstate with
    | idle => exact absurd hr hruns
    | wait => rw [step_wait s hreset hr, step_wait _ hreset' hr, ignoresOtherUnits_waitStep]; rfl
    | read => rw [step_read s hreset hr, step_read _ hreset' hr, readStep_otherUnits]

end Sys2Proof.Machine
end

section
/-! Runs of an ACC: they reach the end the big-step function gives (42_response_accumulator.md R159), and they end where
no wait is transient (R164). -/

namespace Sys2Proof.Machine

open Sys2Proof.Claims Sys2Proof.Safety

/-- Some run of at most `n` steps ends in a state with `P`. -/
def ReachesWithin (n : Nat) (s : State) (P : State → Prop) : Prop :=
  ∃ k t, k ≤ n ∧ Host.Core.run Sys2Proof.core k s = .next t ∧ P t

theorem ReachesWithin.here {n : Nat} {s : State} {P : State → Prop} (h : P s) : ReachesWithin n s P :=
  ⟨0, s, Nat.zero_le n, core_run_zero s, h⟩

theorem ReachesWithin.step {n : Nat} {s u : State} {P : State → Prop} (hstep : step s = .next u)
    (h : ReachesWithin n u P) : ReachesWithin (n + 1) s P := by
  obtain ⟨k, t, hk, hrun, ht⟩ := h
  exact ⟨k + 1, t, Nat.succ_le_succ hk, (core_run_succ k s u hstep).trans hrun, ht⟩

/-! ### Scripted answers (log 1) -/

/-- The bytes of the delivery, if it is one, are no more than `cap`. -/
def Fits (cap : Nat) (a : ReadAnswer) : Prop := ∀ bs, a = .bytes bs → bs.length ≤ cap

theorem fits_error (cap : Nat) : Fits cap .error := nofun

theorem fits_bytes {cap : Nat} {bs : List Byte} (h : bs.length ≤ cap) : Fits cap (.bytes bs) := by
  rintro _ ⟨⟩
  exact h

/-- A scripted read is answered by the first entry of the script and uses it up, where it fits the capacity. -/
theorem readAnswer_cons {e : Transport} {a : ReadAnswer} {rs : List ReadAnswer} {cap : Nat} (h : e.reads = a :: rs)
    (hfits : Fits cap a) :
    readAnswer cap e = a ∧ afterRead cap e = { e with reads := rs } := by
  cases a with
  | error => simp [readAnswer, afterRead, nextDelivery, drawsAfter, h, clip, leftover]
  | bytes bs =>
    have hlen := hfits bs rfl
    simp [readAnswer, afterRead, nextDelivery, drawsAfter, h, clip, leftover, hlen]

/-- An ACC is at the loop test with `off` bytes accumulated and BUF as `buf` says, and the environment will give
`answers` and then what is scripted in `ws` and `rs`. -/
structure AtLoopTest (maxlen minlen : Nat) (ws : List WaitAnswer) (rs : List ReadAnswer) (off : Nat)
    (buf : Nat → Byte) (answers : List AccAnswer) (u : State) : Prop where
  unreset : u.resetIn = []
  maxlen_eq : u.maxlen.toNat = maxlen
  minlen_eq : u.minlen.toNat = minlen
  legal : minlen ≤ maxlen ∧ maxlen ≤ 128
  offset_eq : u.offset.toNat = off
  buffer : ∀ i, readBuf u i = buf i
  waits : u.env.waits = waitsOf answers ++ ws
  reads : u.env.reads = readsOf answers ++ rs

/-- The ACC has ended with this cause, this count and this buffer; the other flags and the host are as given. -/
structure EndsAs (st : Status) (h : HostAgent) (c : Cause) (n : Nat) (buf : Nat → Byte) (t : State) : Prop where
  idle : t.rstate = .idle
  status : t.status = { st with cause := c, err := if c = .hardError then .rxError else .none }
  count : t.count.toNat = n
  buffer : ∀ i, readBuf t i = buf i
  host : t.host = h

section
variable {maxlen minlen off : Nat} {ws : List WaitAnswer} {rs : List ReadAnswer} {buf : Nat → Byte}
  {rest : List AccAnswer} {u : State}

/-- An ACC that ends here ends with the bytes accumulated, or with none after an error (42_response_accumulator.md
R158). -/
theorem AtLoopTest.finish_ends {answers : List AccAnswer} (h : AtLoopTest maxlen minlen ws rs off buf answers u)
    (c : Cause) : EndsAs u.status u.host c (if c = .hardError then 0 else off) buf (finish c u) where
  idle := rfl
  status := rfl
  count := by rw [finish, apply_ite BitVec.toNat, h.offset_eq]; rfl
  buffer := h.buffer
  host := rfl

/-- With enough bytes the ACC ends at the loop test. -/
theorem AtLoopTest.loopTest_ends {answers : List AccAnswer}
    (h : AtLoopTest maxlen minlen ws rs off buf answers u) (hdone : minlen ≤ off) :
    EndsAs u.status u.host .minReached off buf (loopTest u) := by
  rw [loopTest_done u (by rw [h.minlen_eq, h.offset_eq]; exact hdone)]
  exact h.finish_ends .minReached

/-- With fewer it waits. -/
theorem AtLoopTest.loopTest_waits {answers : List AccAnswer}
    (h : AtLoopTest maxlen minlen ws rs off buf answers u) (hmore : ¬ minlen ≤ off) : loopTest u = enterWait u :=
  loopTest_wait u (by rw [h.minlen_eq, h.offset_eq]; exact Nat.not_le.1 hmore)

/-- The wait ends in the outcome that is next in the answers. -/
theorem AtLoopTest.step_wait {o : WaitOutcome} (h : AtLoopTest maxlen minlen ws rs off buf (.wait o :: rest) u) :
    step (enterWait u) = .next (onWaitOutcome o (afterWaiting (enterWait u))) := by
  refine step_wait_outcome h.unreset rfl ?_
  rw [(waitAnswer_cons (e := (enterWait u).env) h.waits).1, waitOutcome_waitThatEnds]

/-- After the wait the rest of the answers is still to come. -/
theorem AtLoopTest.after_wait {o : WaitOutcome} (h : AtLoopTest maxlen minlen ws rs off buf (.wait o :: rest) u) :
    AtLoopTest maxlen minlen ws rs off buf rest (afterWaiting (enterWait u)) :=
  { h with
    waits := congrArg Transport.waits (waitAnswer_cons (e := (enterWait u).env) h.waits).2
    reads := h.reads }

/-- After a wait that ended in `ready` the ACC reads. -/
theorem AtLoopTest.after_ready (h : AtLoopTest maxlen minlen ws rs off buf (.wait .ready :: rest) u) :
    AtLoopTest maxlen minlen ws rs off buf rest (onWaitOutcome .ready (afterWaiting (enterWait u))) :=
  { h.after_wait with }

/-- The read returns what is next in the answers, where it fits the capacity. -/
theorem AtLoopTest.step_read {a : ReadAnswer} (h : AtLoopTest maxlen minlen ws rs off buf (.read a :: rest) u)
    (hread : u.rstate = .read) (hmore : ¬ minlen ≤ off) (hfits : Fits (maxlen - off) a) :
    step u = .next (onReadAnswer a (afterReading u)) := by
  obtain ⟨hle, hcap⟩ := h.legal
  have hmax := h.maxlen_eq
  have hoff := h.offset_eq
  have hroom : readCap u = maxlen - off := by rw [readCap, hmax, hoff]
  rw [← hroom] at hfits
  exact step_read_answer h.unreset hread (by omega) (by omega) (readAnswer_cons h.reads hfits).1

/-- After the read the rest of the answers is still to come. -/
theorem AtLoopTest.after_reading {a : ReadAnswer} (h : AtLoopTest maxlen minlen ws rs off buf (.read a :: rest) u)
    (hfits : Fits (maxlen - off) a) :
    AtLoopTest maxlen minlen ws rs off buf rest (afterReading u) := by
  have hcap : readCap u = maxlen - off := by rw [readCap, h.maxlen_eq, h.offset_eq]
  rw [← hcap] at hfits
  exact { h with waits := h.waits, reads := congrArg Transport.reads (readAnswer_cons h.reads hfits).2 }

/-- The stores of a read (42_response_accumulator.md R156). -/
theorem AtLoopTest.after_stores {bs : List Byte} (h : AtLoopTest maxlen minlen ws rs off buf rest u)
    (hfits : bs.length ≤ maxlen - off) :
    AtLoopTest maxlen minlen ws rs (off + bs.length) (patched buf off bs) rest (storeRead bs u) := by
  obtain ⟨hle, hcap⟩ := h.legal
  have hoff := h.offset_eq
  have hbyte := u.offset.isLt
  refine { h with offset_eq := ?_, buffer := fun i => ?_ }
  · rw [storeRead_offset bs u (by omega), hoff]
  · rw [readBuf_storeRead, patched, h.buffer i, hoff]

/-- A wait that ends in `ready` and the read after it take two steps, to the action on what was read. -/
theorem AtLoopTest.reaches_read {a : ReadAnswer} {k : Nat} {P : State → Prop}
    (h : AtLoopTest maxlen minlen ws rs off buf (.wait .ready :: .read a :: rest) u) (hmore : ¬ minlen ≤ off)
    (hfits : Fits (maxlen - off) a)
    (hnext : ∀ v, AtLoopTest maxlen minlen ws rs off buf rest v → v.status = u.status → v.host = u.host →
      ReachesWithin k (onReadAnswer a v) P) :
    ReachesWithin (k + 2) (loopTest u) P := by
  rw [h.loopTest_waits hmore]
  exact .step h.step_wait (.step (h.after_ready.step_read rfl hmore hfits)
    (hnext _ (h.after_ready.after_reading hfits) rfl rfl))

end

/-! ### The big-step function (42_response_accumulator.md R159) -/

/-- From the loop test a run, of a step for each answer at most, ends as the big-step function says. By induction along
that function. -/
theorem reaches_accRun {maxlen minlen : Nat} {ws : List WaitAnswer} {rs : List ReadAnswer} {c : Cause} {n : Nat}
    {end_buf : Nat → Byte} (off : Nat) (buf : Nat → Byte) (answers : List AccAnswer)
    (hrun : accRun maxlen minlen off buf answers = some (c, n, end_buf)) (u : State)
    (hu : AtLoopTest maxlen minlen ws rs off buf answers u) :
    ReachesWithin answers.length (loopTest u) (EndsAs u.status u.host c n end_buf) := by
  fun_induction accRun maxlen minlen off buf answers generalizing u
  -- enough bytes, whatever answers are left
  case case1 hdone | case3 hdone | case5 hdone | case7 hdone | case9 hdone | case11 hdone | case16 hdone =>
    cases hrun
    exact .here (hu.loopTest_ends hdone)
  -- answers that run out, or do not fit
  case case2 | case4 | case15 | case17 => cases hrun
  -- a wait that ends in timeout
  case case6 hmore =>
    cases hrun
    rw [hu.loopTest_waits hmore]
    exact .step hu.step_wait (.here (hu.after_wait.finish_ends .timeout))
  -- a wait that ends in hard_error
  case case8 hmore =>
    cases hrun
    rw [hu.loopTest_waits hmore]
    exact .step hu.step_wait (.here (hu.after_wait.finish_ends .hardError))
  -- a wait that ends in transient
  case case10 hmore ih =>
    have hrest := ih hrun _ hu.after_wait
    rw [hu.after_wait.loopTest_waits hmore] at hrest
    rw [hu.loopTest_waits hmore]
    exact .step hu.step_wait hrest
  -- a read that fails
  case case12 hmore =>
    cases hrun
    refine hu.reaches_read hmore (fits_error _) fun v hv hstatus hhost => .here ?_
    rw [← hstatus, ← hhost]
    exact hv.finish_ends .hardError
  -- a read of no byte
  case case13 hmore =>
    cases hrun
    refine hu.reaches_read hmore (fits_bytes (Nat.zero_le _)) fun v hv hstatus hhost => .here ?_
    rw [← hstatus, ← hhost]
    exact hv.finish_ends .closed
  -- a read of one byte or more
  case case14 hmore b bs hlen ih =>
    refine hu.reaches_read hmore (fits_bytes hlen) fun v hv hstatus hhost => ?_
    rw [← hstatus, ← hhost]
    exact ih hrun _ (hv.after_stores hlen)

/-- The step in which the host starts an ACC (43_host_access.md R186). -/
theorem step_acc {s : State} {rest : List Request} (h : Asks s (.wr 0x02 0x60) rest) (hopened : s.env.opened = true) :
    step s = .next (accStart (issued s rest)) := by
  obtain ⟨hreset, hidle, htask, hqueue⟩ := h
  rw [step_request s _ rest hreset hidle htask hqueue, popRequest_eq_issued s _ rest hqueue,
    show (0x60 : Word) = (0x60 : Byte).setWidth 32 from rfl, runRequest_command]
  exact exec_acc_opened hopened

/-- The start of ACC with legal operands is the loop test with nothing accumulated (42_response_accumulator.md R146). -/
theorem accStart_legal {s : State} (hle : s.minlen.toNat ≤ s.maxlen.toNat) (hcap : s.maxlen.toNat ≤ 128) :
    accStart s = loopTest { s with offset := 0 } :=
  if_pos ((accOperandsLegal_iff s).2 ⟨hcap, hle⟩)

/-- Settles O31: the first step is at the loop test, and the rest of the run follows the big-step function. -/
theorem accRefinesBigStep : Obligations.AccRefinesBigStep := by
  intro s answers rest ws rs c n buf hasks hopened hle hcap hwaits hreads hrun
  have hstart : AtLoopTest s.maxlen.toNat s.minlen.toNat ws rs 0 (readBuf s) answers
      { issued s rest with offset := 0 } :=
    { unreset := hasks.1, maxlen_eq := rfl, minlen_eq := rfl, legal := ⟨hle, hcap⟩, offset_eq := rfl
      buffer := fun _ => rfl, waits := hwaits, reads := hreads }
  have hstep := step_acc hasks hopened
  rw [accStart_legal (s := issued s rest) hle hcap] at hstep
  obtain ⟨k, t, -, hk, hend⟩ := ReachesWithin.step hstep (reaches_accRun 0 _ answers hrun _ hstart)
  exact ⟨k, t, hk, hend.idle, hend.status, hend.count, hend.buffer, hend.host⟩

/-! ### An ACC without transient waits (42_response_accumulator.md R164) -/

/-- A sound state with no reset asserted whose next `d` waits are scripted, none of them transient. -/
structure Calm (d : Nat) (s : State) : Prop where
  sound : Inv s
  unreset : s.resetIn = []
  scripted : d ≤ s.env.waits.length
  never : NeverTransient s.env.waits

/-- The accumulator is at rest. -/
def Idle (s : State) : Prop := s.rstate = .idle

/-- A read ends the ACC or leaves it waiting with at least one byte fewer wanted, the waits as they were
(42_response_accumulator.md R153 to R156). -/
theorem Calm.step_read {d : Nat} {s : State} (h : Calm d s) (hread : s.rstate = .read) :
    ∃ t, step s = .next t ∧
      (Idle t ∨ t.rstate = .wait ∧ Calm d t ∧ t.minlen.toNat - t.offset.toNat < s.minlen.toNat - s.offset.toNat) := by
  rcases step_read_cases h.sound h.unreset hread with hs | hs | ⟨bs, hpos, -, hoff, ⟨hmore, hs⟩ | ⟨-, hs⟩⟩
  · exact ⟨_, hs, .inl rfl⟩
  · exact ⟨_, hs, .inl rfl⟩
  · refine ⟨_, hs, .inr ⟨rfl, ⟨everyStepKeepsTheInvariant s _ h.sound hs, h.unreset, h.scripted, h.never⟩, ?_⟩⟩
    show s.minlen.toNat - (storeRead bs (afterReading s)).offset.toNat < s.minlen.toNat - s.offset.toNat
    omega
  · exact ⟨_, hs, .inl rfl⟩

/-- A wait ends the ACC or leaves it reading, one wait of the script used up (42_response_accumulator.md R150, R151,
R157). -/
theorem Calm.step_wait {d : Nat} {s : State} (h : Calm (d + 1) s) (hwait : s.rstate = .wait) :
    ∃ t, step s = .next t ∧ (Idle t ∨ t.rstate = .read ∧ Calm d t ∧ t.minlen = s.minlen ∧ t.offset = s.offset) := by
  obtain ⟨hsound, hreset, hscript, hnever⟩ := h
  cases hwaits : s.env.waits with
  | nil =>
    rw [hwaits] at hscript
    cases hscript
  | cons w ws =>
    rw [hwaits] at hscript hnever
    obtain ⟨hanswer, hafter⟩ := waitAnswer_cons hwaits
    cases ho : waitOutcome (waitAnswer s.env) s.timer with
    | timeout => exact ⟨_, step_wait_outcome hreset hwait ho, .inl rfl⟩
    | hardError => exact ⟨_, step_wait_outcome hreset hwait ho, .inl rfl⟩
    | transient =>
      rw [hanswer] at ho
      obtain ⟨hhard, hready, htransient⟩ := transient_of_waitOutcome ho
      have hw := hnever w List.mem_cons_self
      simp [hhard, hready, htransient] at hw
    | ready =>
      have hstep := step_wait_outcome hreset hwait ho
      have hleft : (onWaitOutcome .ready (afterWaiting s)).env.waits = ws := congrArg Transport.waits hafter
      exact ⟨_, hstep, .inr ⟨rfl, ⟨everyStepKeepsTheInvariant s _ hsound hstep, hreset,
        by rw [hleft]; exact Nat.le_of_succ_le_succ hscript,
        by rw [hleft]; exact fun v hv => hnever v (List.mem_cons_of_mem w hv)⟩, rfl, rfl⟩⟩

/-- A reading ACC ends where every waiting one with fewer bytes wanted does. -/
theorem Calm.read_ends {d : Nat} {s : State} (h : Calm d s) (hread : s.rstate = .read)
    (hwanted : s.minlen.toNat - s.offset.toNat ≤ d + 1)
    (hwaiting : ∀ t, Calm d t → t.rstate = .wait → t.minlen.toNat - t.offset.toNat ≤ d →
      ReachesWithin (2 * d) t Idle) :
    ReachesWithin (2 * d + 1) s Idle := by
  obtain ⟨t, hstep, hidle | ⟨hwait, hcalm, hless⟩⟩ := h.step_read hread
  · exact .step hstep (.here hidle)
  · exact .step hstep (hwaiting t hcalm hwait (by omega))

/-- A waiting ACC ends within a wait and a read for each byte still wanted. By induction on their number. -/
theorem Calm.wait_ends {d : Nat} {s : State} (h : Calm d s) (hwait : s.rstate = .wait)
    (hwanted : s.minlen.toNat - s.offset.toNat ≤ d) : ReachesWithin (2 * d) s Idle := by
  induction d generalizing s with
  | zero =>
    obtain ⟨hlt, -, -⟩ := running_bounds h.sound (by rw [hwait]; decide)
    omega
  | succ d ih =>
    obtain ⟨t, hstep, hidle | ⟨hread, hcalm, hminlen, hoffset⟩⟩ := h.step_wait hwait
    · exact .step hstep (.here hidle)
    · rw [← hminlen, ← hoffset] at hwanted
      exact .step hstep (hcalm.read_ends hread hwanted fun u hu hw => ih hu hw)

/-- Settles O32, by what the ACC is about to do: a read leaves one byte fewer to wait for. -/
theorem accEndsWithoutTransients : Obligations.AccEndsWithoutTransients := by
  intro s hi hreset hruns hscript hnever
  obtain ⟨hlt, -, -⟩ := running_bounds hi hruns
  obtain ⟨d, hd⟩ : ∃ d, s.minlen.toNat - s.offset.toNat = d + 1 := Nat.exists_eq_add_one.2 (by omega)
  rw [hd] at hscript ⊢
  cases hr : s.rstate with
  | idle => exact absurd hr hruns
  | wait => exact Calm.wait_ends ⟨hi, hreset, hscript, hnever⟩ hr hd.le
  | read =>
    obtain ⟨k, t, hk, hend⟩ := Calm.read_ends ⟨hi, hreset, Nat.le_of_succ_le hscript, hnever⟩ hr hd.le
      fun t ht hw => ht.wait_ends hw
    exact ⟨k, t, by omega, hend⟩

end Sys2Proof.Machine
end

section
/-! Accesses of the host (43_host_access.md): RD, WR of a register that starts no command, the instructions a step runs,
and the host that waits while an ACC runs. -/

namespace Sys2Proof.Machine

open Sys2Proof.Claims

/-! ### The instruction a step runs (43_host_access.md R186) -/

/-- The step in which the host makes its next request. -/
theorem step_asks {s : State} {r : Request} {rest : List Request} (h : Asks s r rest) :
    step s = runRequest r (issued s rest) := by
  obtain ⟨hreset, hidle, htask, hqueue⟩ := h
  rw [step_request s r rest hreset hidle htask hqueue, popRequest_eq_issued s r rest hqueue]

theorem runFrame_ok {f : Frame} {i : Instr} (h : decode (frameBytes f) = .ok i) (s : State) :
    runFrame f s = exec i s := by
  simp only [runFrame, h]

/-- Settles O48: the request is taken off the queue and the decoder's answer selects the operation. -/
theorem stepRunsTheDecodedInstruction : Obligations.StepRunsTheDecodedInstruction := by
  intro s i rest
  refine ⟨fun c hasks hdecode => ?_, fun f hasks hdecode => ?_⟩
  · rw [step_command hasks, runCommand_ok hdecode]
  · rw [step_asks hasks, runRequest, runFrame_ok hdecode]

/-! ### RD (43_host_access.md R181) -/

/-- RD returns a value exactly where the register may be read, and it is the whole register (10_state.md R21, R36). -/
theorem readReg_toNat (s : State) (num : Byte) :
    (readReg s num).toOption.map BitVec.toNat = regValue s num.toNat := by
  have wide8 (b : Byte) : (b.setWidth 32).toNat = b.toNat := BitVec.toNat_setWidth_of_le (by decide)
  have wide16 (h : Half) : (h.setWidth 32).toNat = h.toNat := BitVec.toNat_setWidth_of_le (by decide)
  unfold readReg regValue
  generalize num.toNat = n
  match n with
  | 0x01 => exact congrArg some ((wide8 _).trans (statusByte_toNat s.status))
  | 0x03 => rfl
  | 0x0F => exact congrArg some (wide16 _)
  | 0x00 | 0x04 | 0x05 | 0x06 | 0x07 | 0x08 | 0x09 | 0x0A | 0x0B | 0x0C | 0x0D | 0x0E | 0x10 | 0x11 | 0x12 | 0x13
  | 0x14 | 0x15 => exact congrArg some (wide8 _)
  | 0x02 | _ + 0x16 => rfl

theorem runRequest_rd_ok {s : State} {num : Byte} {w : Word} (h : readReg s num = .ok w) :
    runRequest (.rd num) s = .next (giveResult w s) := by
  simp only [runRequest, h]

theorem runRequest_rd_error {s : State} {num : Byte} {e : Refusal} (h : readReg s num = .error e) :
    runRequest (.rd num) s = .refused e := by
  simp only [runRequest, h]

/-- Settles O36: the step is the request, and the register's number decides between the value and the refusal. -/
theorem rdReturnsTheRegister : Obligations.RdReturnsTheRegister := by
  intro s num rest hasks
  have hvalue : (readReg (issued s rest) num).toOption.map BitVec.toNat = regValue s num.toNat :=
    readReg_toNat (issued s rest) num
  rw [step_asks hasks, ← hvalue]
  cases hread : readReg (issued s rest) num with
  | ok w => exact ⟨fun v hv => ⟨w, Option.some.inj hv, runRequest_rd_ok hread⟩, nofun⟩
  | error e => exact ⟨nofun, fun _ => ⟨e, runRequest_rd_error hread⟩⟩

/-! ### WR (43_host_access.md R182) -/

/-- The writes of a register that start no command: the register's number, the number it reads as afterwards, and the
write (10_state.md R21, R24). -/
inductive RegisterWrite : Nat → Nat → (State → State) → Prop
  | ctrl (b : Byte) : RegisterWrite 0x00 (b &&& 1).toNat (setCtrl b)
  | value (v : Word) : RegisterWrite 0x03 v.toNat (wrValue v)
  | bcd0 (b : Byte) : RegisterWrite 0x04 b.toNat (wrBcd 0 b)
  | bcd1 (b : Byte) : RegisterWrite 0x05 b.toNat (wrBcd 1 b)
  | bcd2 (b : Byte) : RegisterWrite 0x06 b.toNat (wrBcd 2 b)
  | bcd3 (b : Byte) : RegisterWrite 0x07 b.toNat (wrBcd 3 b)
  | p0 (b : Byte) : RegisterWrite 0x08 b.toNat (wrP 0 b)
  | p1 (b : Byte) : RegisterWrite 0x09 b.toNat (wrP 1 b)
  | p2 (b : Byte) : RegisterWrite 0x0A b.toNat (wrP 2 b)
  | p3 (b : Byte) : RegisterWrite 0x0B b.toNat (wrP 3 b)
  | op (b : Byte) : RegisterWrite 0x0C b.toNat (wrOp b)
  | maxlen (b : Byte) : RegisterWrite 0x0D b.toNat (wrMaxlen b)
  | minlen (b : Byte) : RegisterWrite 0x0E b.toNat (wrMinlen b)
  | timeout (h : Half) : RegisterWrite 0x0F h.toNat (wrTimeout h)

/-- The states agree outside the registers the host may write. -/
def SameOutsideRegisters (s t : State) : Prop :=
  t = { s with
    ctrl := t.ctrl, value := t.value, bcd := t.bcd, p := t.p, op := t.op, maxlen := t.maxlen, minlen := t.minlen
    timeout := t.timeout }

/-- Every register after a write: the one written has its new value, every other its old one. By cases on the register
read and on the write, since each is another field of the state or another byte of one. -/
theorem RegisterWrite.regValue_eq {n x : Nat} {w : State → State} (hw : RegisterWrite n x w) (s : State) :
    regValue (w s) = Function.update (regValue s) n (some x) := by
  funext m
  match m with
  | 0x00 | 0x01 | 0x02 | 0x03 | 0x04 | 0x05 | 0x06 | 0x07 | 0x08 | 0x09 | 0x0A | 0x0B | 0x0C | 0x0D | 0x0E | 0x0F
  | 0x10 | 0x11 | 0x12 | 0x13 | 0x14 | 0x15 | _ + 0x16 => cases hw <;> rfl

/-- A write touches no flag, no hidden register, no cell of `BUF` and neither of the other agents. -/
theorem RegisterWrite.sameOutsideRegisters {n x : Nat} {w : State → State} (hw : RegisterWrite n x w) (s : State) :
    SameOutsideRegisters s (w s) := by
  cases hw <;> rfl

/-- A register as wide as a value needs holds all of it. -/
theorem setWidth_toNat_of_fits {k : Nat} {v : Word} (h : v.toNat < 2 ^ k) : (v.setWidth k).toNat = v.toNat := by
  rw [BitVec.toNat_setWidth, Nat.mod_eq_of_lt h]

/-- The bit of a byte that `CTRL` stores (10_state.md R24). -/
theorem low_bit_toNat (b : Byte) : (b &&& 1).toNat = b.toNat % 2 := by
  rw [BitVec.toNat_and]
  exact Nat.and_one_is_mod b.toNat

/-- A value that fits an 8-bit register is written to it. -/
theorem write8_fits (num : Byte) {n : Nat} {v : Word} {put : Byte → State → State} (hv : v.toNat < 2 ^ 8)
    (hput : ∀ b, RegisterWrite n b.toNat (put b)) :
    ∃ w, RegisterWrite n v.toNat w ∧ ∀ s, write8 num v (fun b => put b s) = .ok (w s) :=
  ⟨put (v.setWidth 8), setWidth_toNat_of_fits hv ▸ hput _, fun _ => if_pos hv⟩

/-- WR of a value that fits a writable register writes that register, CTRL by its low bit alone (43_host_access.md R182,
10_state.md R24). -/
theorem writeReg_fits {num : Byte} {v : Word} {width : Nat} (hwidth : writableWidth num.toNat = some width)
    (hv : v.toNat < 2 ^ width) :
    ∃ w, RegisterWrite num.toNat (if num.toNat = 0 then v.toNat % 2 else v.toNat) w ∧
      ∀ s, writeReg s num v = .ok (w s) := by
  unfold writeReg
  generalize num.toNat = n at hwidth ⊢
  match n with
  | 0x00 =>
    cases hwidth
    refine ⟨_, ?_, fun s => if_pos hv⟩
    rw [if_pos rfl, ← setWidth_toNat_of_fits hv, ← low_bit_toNat]
    exact .ctrl _
  | 0x03 => exact ⟨_, .value v, fun _ => rfl⟩
  | 0x04 => cases hwidth; exact write8_fits num hv .bcd0
  | 0x05 => cases hwidth; exact write8_fits num hv .bcd1
  | 0x06 => cases hwidth; exact write8_fits num hv .bcd2
  | 0x07 => cases hwidth; exact write8_fits num hv .bcd3
  | 0x08 => cases hwidth; exact write8_fits num hv .p0
  | 0x09 => cases hwidth; exact write8_fits num hv .p1
  | 0x0A => cases hwidth; exact write8_fits num hv .p2
  | 0x0B => cases hwidth; exact write8_fits num hv .p3
  | 0x0C => cases hwidth; exact write8_fits num hv .op
  | 0x0D => cases hwidth; exact write8_fits num hv .maxlen
  | 0x0E => cases hwidth; exact write8_fits num hv .minlen
  | 0x0F =>
    cases hwidth
    exact ⟨_, setWidth_toNat_of_fits hv ▸ .timeout (v.setWidth 16), fun _ => if_pos hv⟩
  | 0x01 | 0x02 | 0x10 | 0x11 | 0x12 | 0x13 | 0x14 | 0x15 | _ + 0x16 => cases hwidth

/-- A WR of another register than CMD ends with its write. -/
theorem runRequest_wr_ok {s t : State} {num : Byte} {v : Word} (hnum : num ≠ 0x02) (h : writeReg s num v = .ok t) :
    runRequest (.wr num v) s = .next t := by
  simp only [runRequest, h, if_neg hnum]

/-- Settles O37: the step is one write, and what a write does to each register and to the rest is known. -/
theorem wrStoresTheValue : Obligations.WrStoresTheValue := by
  intro s num v rest width hasks hwidth hv
  obtain ⟨w, hw, hok⟩ := writeReg_fits hwidth hv
  have hnum : num ≠ 0x02 := by
    rintro rfl
    cases hwidth
  have hregs : regValue (w (issued s rest)) = Function.update (regValue s) num.toNat
      (some (if num.toNat = 0 then v.toNat % 2 else v.toNat)) := hw.regValue_eq (issued s rest)
  have hsame := hw.sameOutsideRegisters (issued s rest)
  refine ⟨w (issued s rest), (step_asks hasks).trans (runRequest_wr_ok hnum (hok _)), ?_, fun n hn => ?_, ?_⟩
  · rw [hregs, Function.update_self]
  · rw [hregs, Function.update_of_ne hn]
  · rw [hsame]
    exact ⟨rfl, rfl, rfl, rfl, rfl, rfl, rfl, rfl, rfl, rfl, readBuf_congr _ _ rfl rfl⟩

/-! ### The host during an ACC (43_host_access.md R184) -/

/-- The machine with another host. -/
def withHost (h : HostAgent) (s : State) : State := { s with host := h }

/-- The operation neither reads nor writes the host. -/
def IgnoresHost (g : State → State) : Prop := ∀ h s, g (withHost h s) = withHost h (g s)

theorem ignoresHost_loopTest : IgnoresHost loopTest := by
  intro h s
  simp only [loopTest, apply_ite (withHost h)]
  rfl

theorem ignoresHost_onWaitOutcome (o : WaitOutcome) : IgnoresHost (onWaitOutcome o) := by
  intro h s
  cases o with
  | ready | timeout | transient | hardError => rfl

theorem ignoresHost_waitStep : IgnoresHost waitStep := fun h s =>
  ignoresHost_onWaitOutcome (waitOutcome (waitAnswer s.env) s.timer) h (afterWaiting s)

theorem ignoresHost_onReadAnswer (a : ReadAnswer) : IgnoresHost (onReadAnswer a) := by
  intro h s
  cases a with
  | error => rfl
  | bytes bs =>
    cases bs with
    | nil => rfl
    | cons b bs => exact ignoresHost_loopTest h (storeRead (b :: bs) s)

theorem readStep_withHost (h : HostAgent) (s : State) :
    readStep (withHost h s) = mapNext (withHost h) (readStep s) := by
  simp only [readStep, apply_ite (mapNext (withHost h))]
  rw [mapNext, ← ignoresHost_onReadAnswer]
  rfl

/-- Settles O41: the step is a wait or a read of the ACC, and neither touches the host. -/
theorem hostIsBlockedDuringAcc : Obligations.HostIsBlockedDuringAcc := by
  intro s h hreset hruns
  show step (withHost h s) = mapNext (withHost h) (step s)
  have hreset' : (withHost h s).resetIn = [] := hreset
  cases hr : s.rstate with
  | idle => exact absurd hr hruns
  | wait => rw [step_wait s hreset hr, step_wait _ hreset' hr, ignoresHost_waitStep]; rfl
  | read => rw [step_read s hreset hr, step_read _ hreset' hr, readStep_withHost]

end Sys2Proof.Machine
end

section
/-! The CAT frames (44_cat_commands.md R190 to R208): the nine frames as instructions, on a transport that answers `ok`
and on one that answers an error, and the operations with a number for operand. -/

namespace Sys2Proof.Machine

open Sys2Proof.Claims

/-! ### RECV (44_cat_commands.md R193) -/

/-- The operands of a RECV whose ACC waits for at least one byte (42_response_accumulator.md R147, R169). -/
def Response.Awaits (r : Response) : Prop :=
  0 < r.minLen.toNat ∧ r.minLen.toNat ≤ r.maxLen.toNat ∧ r.maxLen.toNat ≤ 128

theorem awaits_responseProbe : responseProbe.Awaits := ⟨by decide, by decide, by decide⟩

theorem awaits_responseReadFreq : responseReadFreq.Awaits := ⟨by decide, by decide, by decide⟩

theorem awaits_responseEeRead (task : Task) : (responseEeRead task).Awaits :=
  ⟨Nat.two_pos, (by decide : 2 ≤ 16), (by decide : 16 ≤ 128)⟩

theorem awaits_responseFlush : responseFlush.Awaits := ⟨by decide, by decide, by decide⟩

/-- The state in which the ACC of a RECV waits (42_response_accumulator.md R148, R160). -/
def awaitingResponse (r : Response) (s : State) : State :=
  { s with
    maxlen := r.maxLen, minlen := r.minLen, timeout := r.timeoutMs
    rstate := .wait, offset := 0, timer := r.timeoutMs
    host := { s.host with task := some r.task } }

/-- RECV writes its operands, and its ACC enters the wait (44_cat_commands.md R193, 42_response_accumulator.md R148). -/
theorem runScript_recv_awaits {r : Response} (h : r.Awaits) (s : State) :
    runScript (recv r) s = awaitingResponse r s := by
  obtain ⟨hpos, hle, hcap⟩ := h
  rw [runScript_recv, accStart_waits _ hcap hle hpos]
  rfl

/-- Settles O22: FLUSH is RECV alone, with operands whose ACC waits. -/
theorem flushStartsAccumulateOnly : Obligations.FlushStartsAccumulateOnly := by
  intro s rest hasks hopened
  rw [step_asks hasks, runRequest, withTransport_opened (issued s rest) _ hopened,
    runScript_recv_awaits awaits_responseFlush]
  rfl

/-! ### The nine frames (44_cat_commands.md R192, R194) -/

/-- An instruction that is written as a frame is the operation of that frame (30_encoding.md R88, R89). -/
theorem exec_of_encode_frame {i : Instr} {f : Frame} (h : encode i = frameBytes f) (s : State) :
    exec i s = catCommand f (responseOf f) s := by
  rw [← runFrame_eq, runFrame_ok (h ▸ decode_encode i)]

/-- A frame with a response is built and sent, and the ACC of its response waits (44_cat_commands.md R192, R193;
log 8). -/
theorem catCommand_answered {s : State} {r : Response} (f : Frame) (hr : r.Awaits) (h : WillSend s) :
    catCommand f (some r) s = .next (receivingState s f r.maxLen r.minLen r.timeoutMs r.task) := by
  obtain ⟨hopened, hanswer⟩ := h
  rw [catCommand, withTransport_opened _ _ hopened, runScript_catScript f (some r) s _ (sendFrame_sends f s), hanswer,
    afterStatus_answered f r _ (by simp [errOf]), runScript_recv_awaits hr]
  rfl

/-- A write failure ends an operation before its RECV, whatever the response would have been (44_cat_commands.md R194;
log 13, 16). -/
theorem catCommand_failed {s : State} {n : Nat} (f : Frame) (resp : Option Response) (hopened : s.env.opened = true)
    (hanswer : txAnswer s.env = .error n) :
    catCommand f resp s = .next (sentState s f (.failed n) .txError (.writeFailed f.opc)) := by
  rw [catCommand, withTransport_opened _ _ hopened, runScript_catScript f resp s _ (sendFrame_sends f s), hanswer,
    afterStatus_failed f resp _ rfl, runScript_done]
  rfl

/-- SENDFRAME and the start of RECV store nothing in the buffer. -/
theorem sameBuffer_receivingState (s : State) (f : Frame) (max min : Byte) (ms : Half) (task : Task) :
    SameBuffer s (receivingState s f max min ms task) :=
  readBuf_congr s _ rfl rfl

theorem sendsOnly_of_encode {i : Instr} {f : Frame} (hi : encode i = frameBytes f) (hresp : responseOf f = none) :
    SendsOnly i f := by
  intro s hsend
  rw [exec_of_encode_frame hi, hresp]
  exact ⟨catCommand_silent f hsend, sameBuffer_sentState s f _ _ _⟩

theorem sendsAndReceives_of_encode {i : Instr} {f : Frame} {r : Response} (hi : encode i = frameBytes f)
    (hresp : responseOf f = some r) (hr : r.Awaits) :
    SendsAndReceives i f r.maxLen r.minLen r.timeoutMs r.task := by
  intro s hsend
  rw [exec_of_encode_frame hi, hresp]
  exact ⟨catCommand_answered f hr hsend, sameBuffer_receivingState s f _ _ _ _⟩

theorem endsOnWriteFailure_of_encode {i : Instr} {f : Frame} (hi : encode i = frameBytes f) :
    EndsOnWriteFailure i f := by
  intro s n hopened hanswer
  rw [exec_of_encode_frame hi]
  exact ⟨catCommand_failed f _ hopened hanswer, sameBuffer_sentState s f _ _ _⟩

/-- Settles O13: each of the six is written as its frame, and its opcode has no response. -/
theorem silentFramesAreSent : Obligations.SilentFramesAreSent := fun _ _ _ _ =>
  ⟨sendsOnly_of_encode rfl rfl, sendsOnly_of_encode rfl rfl, sendsOnly_of_encode rfl rfl, sendsOnly_of_encode rfl rfl,
    sendsOnly_of_encode rfl rfl, sendsOnly_of_encode rfl rfl⟩

/-- Settles O14: each of the three is written as its frame, and the ACC of its response waits. -/
theorem answeredFramesAreSentAndAwaited : Obligations.AnsweredFramesAreSentAndAwaited := fun _ _ _ _ =>
  ⟨sendsAndReceives_of_encode rfl rfl awaits_responseProbe, sendsAndReceives_of_encode rfl rfl awaits_responseReadFreq,
    sendsAndReceives_of_encode rfl rfl (awaits_responseEeRead _)⟩

/-- Settles O15: each of the nine is written as its frame, and a write failure ends it whatever its response. -/
theorem writeFailureEndsEveryOperation : Obligations.WriteFailureEndsEveryOperation := fun _ _ _ _ =>
  ⟨endsOnWriteFailure_of_encode rfl, endsOnWriteFailure_of_encode rfl, endsOnWriteFailure_of_encode rfl,
    endsOnWriteFailure_of_encode rfl, endsOnWriteFailure_of_encode rfl, endsOnWriteFailure_of_encode rfl,
    endsOnWriteFailure_of_encode rfl, endsOnWriteFailure_of_encode rfl, endsOnWriteFailure_of_encode rfl⟩

/-! ### A number for operand (44_cat_commands.md R197, R203, R205; log 17) -/

/-- The state after the number `v` is packed as the field `q` and the frame of that field is sent: the host has read the
four bytes of the field and then STATUS. -/
def numberSent (v : Nat) (q : Quad) (opc : Byte) (s : State) : State :=
  { s with
    value := BitVec.ofNat 32 v, bcd := q, p := q, op := opc, frame := layoutB q opc
    status := statusAfterSend s .none
    trace := traceAfterSend s (frameBytes (layoutB q opc))
    env := envAfterSend s (layoutB q opc) .whole
    host := { s.host with
      results := s.host.results ++ (quadBytes q).map (BitVec.setWidth 32) ++
        [(statusByte (statusAfterSend s .none)).setWidth 32]
      reports := s.host.reports ++ [.frameSent opc] } }

/-- SENDFRAME of a frame without a response, as the end of a longer sequence (44_cat_commands.md R192). -/
theorem runScript_catScript_silent {s : State} (f : Frame) (h : WillSend s) :
    runScript (catScript f none) s = sentState s f .whole .none (.frameSent f.opc) :=
  Host.Outcome.next.inj ((withTransport_opened s _ h.1).symm.trans (catCommand_silent f h))

/-- PACK of the number just written to VALUE (40_bcd_codec.md R112). -/
theorem packOp_wrValue {v : Nat} (hv : v < 2 ^ 32) (d : Nibble) (s : State) :
    packOp d (wrValue (BitVec.ofNat 32 v) s) =
      setErr .none { s with value := BitVec.ofNat 32 v, bcd := packField (fieldBytes d) v } := by
  rw [packOp, wrValue_value, BitVec.toNat_ofNat, Nat.mod_eq_of_lt hv]
  rfl

/-- `RD BCD0` to `RD BCD3` only add the four bytes to the host's results (44_cat_commands.md R197). -/
theorem giveByte_bcd_bytes (s : State) :
    giveByte s.bcd.b3 (giveByte s.bcd.b2 (giveByte s.bcd.b1 (giveByte s.bcd.b0 s))) = { s with
      host := { s.host with results := s.host.results ++ (quadBytes s.bcd).map (BitVec.setWidth 32) } } := by
  simp only [giveByte, giveResult, List.append_assoc]
  rfl

/-- An operation with a number that fits VALUE packs it and sends the field (44_cat_commands.md R197, R203, R205). -/
theorem runNumber_sends {d : Nibble} {v : Nat} {opc : Byte} {s : State} (hv : v < 2 ^ 32) (h : WillSend s) :
    runNumber d v opc s = .next (numberSent v (packField (fieldBytes d) v) opc s) := by
  obtain ⟨t, ht, hscript⟩ := runScript_numberScript d v opc s
  rw [packOp_wrValue hv] at ht
  generalize packField (fieldBytes d) v = q at ht ⊢
  subst ht
  simp only [runNumber, numberSequence, if_pos hv]
  rw [withTransport_opened _ _ h.1, hscript, giveByte_bcd_bytes, runScript_catScript_silent]
  · rfl
  · exact h

theorem sameBuffer_numberSent (v : Nat) (q : Quad) (opc : Byte) (s : State) : SameBuffer s (numberSent v q opc s) :=
  readBuf_congr s _ rfl rfl

/-- VALUE holds a number that fits it whole. -/
theorem numberSent_value {v : Nat} (hv : v < 2 ^ 32) (q : Quad) (opc : Byte) (s : State) :
    (numberSent v q opc s).value.toNat = v :=
  (BitVec.toNat_ofNat _ _).trans (Nat.mod_eq_of_lt hv)

/-- Settles O17: the frame is the field of four bytes of `f div 10`, which fits VALUE. -/
theorem tuneSendsFrequencyInTensOfHertz : Obligations.TuneSendsFrequencyInTensOfHertz := by
  intro s f rest hasks hf hsend
  have hfits : f / 10 < 2 ^ 32 := by omega
  have hstep : step s = .next (numberSent (f / 10) (packField 4 (f / 10)) 0x01 (issued s rest)) :=
    (step_asks hasks).trans (runNumber_sends hfits hsend)
  have hdigits {k : Nat} (hk : k < 4) := hasDigits_packField hk le_rfl (f / 10)
  exact ⟨_, hstep, numberSent_value hfits _ _ _, hdigits (k := 0) (by decide), hdigits (k := 1) (by decide),
    hdigits (k := 2) (by decide), hdigits (k := 3) (by decide), rfl, rfl, rfl, rfl, rfl, rfl,
    sameBuffer_numberSent _ _ _ (issued s rest)⟩

/-- Both requests run a number of four digits (44_cat_commands.md R203, R205). -/
theorem runRequest_fourDigits {r : Request} {v : Nat} {opc : Byte}
    (h : (∃ t, r = .ctcssTone t ∧ v = t ∧ opc = 0x0B) ∨ (∃ o, r = .rptOfs o ∧ v = o / 10000 ∧ opc = 0xF9))
    (s : State) : runRequest r s = runNumber 4 v opc s := by
  rcases h with ⟨t, rfl, rfl, rfl⟩ | ⟨o, rfl, rfl, rfl⟩ <;> rfl

/-- Settles O18: the frame is the field of two bytes of the number, and zero bytes after it. -/
theorem toneAndOffsetSendFourDigits : Obligations.ToneAndOffsetSendFourDigits := by
  intro s r v opc rest hr hasks hfits hsend
  have hstep : step s = .next (numberSent v (packField 2 v) opc (issued s rest)) := by
    rw [step_asks hasks, runRequest_fourDigits hr]
    exact runNumber_sends hfits hsend
  have hdigits {k : Nat} (hk : k < 2) := hasDigits_packField hk (by decide) v
  have hzero {k : Nat} (hlo : 2 ≤ k) (hhi : k < 4) := quadGet_packField_of_le hlo hhi v
  exact ⟨_, hstep, numberSent_value hfits _ _ _, hdigits (k := 0) (by decide), hdigits (k := 1) (by decide),
    hzero (k := 2) (by decide) (by decide), hzero (k := 3) (by decide) (by decide), rfl, rfl, rfl, rfl, rfl, rfl,
    sameBuffer_numberSent _ _ _ (issued s rest)⟩

end Sys2Proof.Machine
end

section
/-! What the host does with a response when its ACC has ended, and the DUMP that reads one address after another
(44_cat_commands.md R196, R200, R207, R208, R212, R213). -/

namespace Sys2Proof.Machine

open Sys2Proof.Claims

/-! ### PROBE, EEREAD and FLUSH (44_cat_commands.md R196, R207, R208) -/

/-- Settles O20: the count decides between the fatal report and the identity, and both are the host's alone. -/
theorem probeAcceptsNineBytesOrMore : Obligations.ProbeAcceptsNineBytesOrMore := by
  intro s hreset hidle htask
  rw [step_task s _ hreset hidle htask, finishTask_probe]
  by_cases hcount : s.count.toNat < 9
  · rw [if_pos hcount]
    exact ⟨_, rfl, fun _ => rfl, fun h => absurd hcount (Nat.not_lt.2 h), rfl, rfl, rfl, rfl, readBuf_congr s _ rfl rfl⟩
  · rw [if_neg hcount]
    refine ⟨_, rfl, fun h => absurd h hcount, fun _ => ⟨(List.range 9).map (readBuf s), ?_, fun i hi => ?_, rfl⟩,
      rfl, rfl, rfl, rfl, readBuf_congr s _ rfl rfl⟩
    · rw [List.length_map, List.length_range]
    · rw [List.getElem?_map, List.getElem?_range hi, Option.map_some]

/-- Settles O21: both ends hand registers and cells to the host and add one report. -/
theorem eepromReadAndFlushOnlyReport : Obligations.EepromReadAndFlushOnlyReport := by
  intro s task hreset hidle htask
  rw [step_task s task hreset hidle htask]
  refine ⟨?_, ?_⟩
  · rintro a rfl
    exact ⟨_, congrArg _ (finishTask_eeRead a s), rfl, rfl, rfl, rfl, rfl, readBuf_congr s _ rfl rfl⟩
  · rintro rfl
    exact ⟨_, congrArg _ (finishTask_flush s), rfl, rfl, rfl, rfl, rfl, readBuf_congr s _ rfl rfl⟩

/-! ### READFREQ (44_cat_commands.md R200) -/

/-- Ten times a field of four bytes fits 32 bits, whatever its nibbles (40_bcd_codec.md R118). -/
theorem ten_mul_unpackField_lt (q : Quad) : unpackField q 4 * 10 < 2 ^ 32 := by
  have hbound := unpackField_le q 4
  omega

/-- Settles O19: UNPACK 8 of the four bytes gives the value of the field, and ten times that fits. -/
theorem readFreqDecodesTheResponse : Obligations.ReadFreqDecodesTheResponse := by
  intro s hreset hidle htask
  obtain ⟨t, rfl, hend⟩ := finishTask_readFreq s
  have height : LegalDigits 8 := .inr (.inr (.inr rfl))
  have hvalue := unpackOp_value height { s with bcd := ⟨readBuf s 0, readBuf s 1, readBuf s 2, readBuf s 3⟩ }
  have hcount : decide (s.count = 5) = decide (s.count.toNat = 5) := decide_eq_decide.2 BitVec.toNat_inj.symm
  refine ⟨_, (step_task s _ hreset hidle htask).trans (congrArg _ hend), rfl, ?_, ?_, ?_, rfl, rfl, rfl, rfl,
    readBuf_congr s _ rfl rfl⟩
  · exact hvalue.trans (fieldValue_take _ le_rfl).symm
  · exact hvalue ▸ ten_mul_unpackField_lt _
  · rw [← hcount]

/-! ### DUMP (44_cat_commands.md R212, R213; log 18) -/

theorem dumpClosing_none (b0 b1 : Byte) (h : HostAgent) :
    dumpClosing 0 b0 b1 h = noteReport (.dumpStopped h.image.length) h := rfl

theorem dumpClosing_one (b0 b1 : Byte) (h : HostAgent) :
    dumpClosing 1 b0 b1 h = noteReport (.dumpShort h.image.length) (extendImage b0 0 h) := rfl

theorem dumpClosing_more {c : Byte} (hc : 2 ≤ c.toNat) (b0 b1 : Byte) (h : HostAgent) :
    dumpClosing c b0 b1 h = extendImage b0 b1 h := by
  have hzero : c ≠ 0 := by rintro rfl; exact absurd hc (by decide)
  have hone : c ≠ 1 := by rintro rfl; exact absurd hc (by decide)
  rw [dumpClosing, if_neg hzero, if_neg hone]

/-- Settles O23: the count selects what is stored, and all of it is the host's. -/
theorem dumpStoresWhatWasRead : Obligations.DumpStoresWhatWasRead := by
  intro s hreset hidle htask
  rw [step_task s _ hreset hidle htask, finishTask_dump]
  have hcases : s.count = 0 ∨ s.count = 1 ∨ 2 ≤ s.count.toNat := by bv_omega
  rcases hcases with hc | hc | hc
  · rw [hc, dumpClosing_none]
    exact ⟨_, rfl, fun _ => ⟨rfl, rfl, rfl⟩, nofun, nofun, rfl, rfl, readBuf_congr s _ rfl rfl⟩
  · rw [hc, dumpClosing_one]
    exact ⟨_, rfl, nofun, fun _ => ⟨rfl, rfl, rfl⟩, nofun, rfl, rfl, readBuf_congr s _ rfl rfl⟩
  · rw [dumpClosing_more hc]
    exact ⟨_, rfl, fun h => by omega, fun h => by omega, fun _ => ⟨rfl, rfl, rfl⟩, rfl, rfl, readBuf_congr s _ rfl rfl⟩

/-- The address bytes of an EEPROM read, high byte first (44_cat_commands.md R208). -/
theorem frameEeRead_address {n : Nat} (h : n < 2 ^ 16) :
    (frameEeRead (BitVec.ofNat 16 n)).b0.toNat = n / 256 ∧ (frameEeRead (BitVec.ofNat 16 n)).b1.toNat = n % 256 := by
  simp only [frameEeRead, layoutA, BitVec.extractLsb'_toNat, BitVec.toNat_ofNat, Nat.shiftRight_eq_div_pow]
  omega

/-- One address of a DUMP is the EEPROM read of that address, after its marker (44_cat_commands.md R212). -/
theorem runDump_address {s : State} (h : s.host.image.length < 0x1926) :
    runDump s = catCommand (frameEeRead (BitVec.ofNat 16 s.host.image.length)) (some (responseEeRead .dump))
      (dumpMark s) := by
  have hlt : s.host.image.length < dumpEnd := h
  simp only [runDump, dumpSequence, if_pos hlt]
  rfl

theorem runDump_done {s : State} (h : 0x1926 ≤ s.host.image.length) : runDump s = .next (report .dumpDone s) := by
  have hnlt : ¬ s.host.image.length < dumpEnd := Nat.not_lt.2 h
  simp only [runDump, dumpSequence, if_neg hnlt]

/-- The marker of a DUMP leaves the transport. -/
theorem willSend_dumpMark {s : State} (h : WillSend s) : WillSend (dumpMark s) := by
  rw [dumpMark_eq]
  exact h

/-- Settles O24: the length of the image decides between the EEPROM read of that address and the end of the dump. -/
theorem dumpReadsTheNextAddress : Obligations.DumpReadsTheNextAddress := by
  intro s rest hasks hsend
  have hstep : step s = runDump (issued s rest) := step_asks hasks
  by_cases hmore : (issued s rest).host.image.length < 0x1926
  · rw [hstep, runDump_address hmore,
      catCommand_answered _ (awaits_responseEeRead _) (willSend_dumpMark (s := issued s rest) hsend), dumpMark_eq]
    obtain ⟨hhigh, hlow⟩ := frameEeRead_address (hmore.trans (by decide))
    exact ⟨_, rfl, fun _ => ⟨hhigh, hlow, rfl, rfl, rfl, rfl, rfl, rfl, rfl, rfl, rfl, rfl⟩,
      fun h => absurd hmore (Nat.not_lt.2 h), rfl, rfl, readBuf_congr s _ rfl rfl⟩
  · rw [hstep, runDump_done (Nat.not_lt.1 hmore)]
    exact ⟨_, rfl, fun h => absurd (Nat.lt_succ_of_le h) hmore, fun _ => rfl, rfl, rfl, readBuf_congr s _ rfl rfl⟩

end Sys2Proof.Machine
end

section
/-! A reset input that is not asserted changes nothing (70_reset_and_hazards.md R250; log 14): no act of the machine
reads the schedule of the reset input, and a step whose levels stay low is a live step. -/

namespace Sys2Proof.Machine

open Sys2Proof.Claims

/-- The state with another schedule of the reset input. -/
def withSchedule (r : List ResetIn) (s : State) : State := { s with resetIn := r }

/-- The operation neither reads nor changes the schedule of the reset input. -/
def IgnoresSchedule (f : State → State) : Prop := ∀ r s, f (withSchedule r s) = withSchedule r (f s)

/-- The same of an operation that can stop. -/
def IgnoresScheduleOutcome (f : State → Host.Outcome State Fault Refusal) : Prop :=
  ∀ r s, f (withSchedule r s) = mapNext (withSchedule r) (f s)

theorem IgnoresSchedule.next {f : State → State} (h : IgnoresSchedule f) :
    IgnoresScheduleOutcome fun s => .next (f s) :=
  fun r s => congrArg Host.Outcome.next (h r s)

/-- The entry that was sampled is gone from the schedule. -/
theorem popReset_eq_withSchedule {s : State} {x : ResetIn} {r : List ResetIn} (h : s.resetIn = x :: r) :
    popReset s = withSchedule r s := by
  rw [popReset, h]
  rfl

/-! ### One access -/

theorem HostAccess.ignoresSchedule {w : State → State} (hw : HostAccess w) : IgnoresSchedule w :=
  fun r s => by cases hw <;> rfl

theorem HostRead.get_withSchedule {get : State → Byte} (hg : HostRead get) (r : List ResetIn) (s : State) :
    get (withSchedule r s) = get s := by
  cases hg <;> rfl

theorem ignoresSchedule_sendOp : IgnoresSchedule sendOp := fun r s => by
  simp only [sendOp, apply_ite (withSchedule r)]
  rfl

/-! ### The accumulator -/

theorem ignoresSchedule_loopTest : IgnoresSchedule loopTest := fun r s => by
  simp only [loopTest, apply_ite (withSchedule r)]
  rfl

theorem ignoresSchedule_accStart : IgnoresSchedule accStart := fun r s => by
  simp only [accStart, apply_ite (withSchedule r), ← ignoresSchedule_loopTest r]
  rfl

theorem ignoresSchedule_onWaitOutcome (o : WaitOutcome) : IgnoresSchedule (onWaitOutcome o) :=
  fun r s => by cases o <;> rfl

theorem ignoresSchedule_waitStep : IgnoresSchedule waitStep := fun r s =>
  ignoresSchedule_onWaitOutcome (waitOutcome (waitAnswer s.env) s.timer) r (afterWaiting s)

theorem ignoresSchedule_onReadAnswer (a : ReadAnswer) : IgnoresSchedule (onReadAnswer a) := fun r s => by
  match a with
  | .error | .bytes [] => rfl
  | .bytes (b :: bs) => exact ignoresSchedule_loopTest r (storeRead (b :: bs) s)

theorem ignoresSchedule_readStep : IgnoresScheduleOutcome readStep := fun r s => by
  rw [readStep, readStep, apply_ite (mapNext (withSchedule r))]
  exact if_congr Iff.rfl
    (congrArg Host.Outcome.next (ignoresSchedule_onReadAnswer (readAnswer (readCap s) s.env) r (afterReading s))) rfl

/-! ### The host's sequences and requests -/

/-- A host sequence without a reset reads what it reads under any schedule. -/
theorem ignoresSchedule_runScript {sc : Script} (hm : MadeOfAccesses sc) : IgnoresSchedule (runScript sc) := by
  intro r s
  induction sc generalizing s with
  | done closing => rfl
  | acc k => exact ignoresSchedule_accStart r (awaiting k s)
  | access work next ih => rw [runScript_access, hm.1.ignoresSchedule r s]; exact ih hm.2 (work s)
  | send next ih => rw [runScript_send, ignoresSchedule_sendOp r s]; exact ih hm (sendOp s)
  | rdByte get next ih => rw [runScript_rdByte, hm.1.get_withSchedule r s]; exact ih _ (hm.2 _) (giveByte (get s) s)
  | rdValue next ih => exact ih _ (hm _) (giveResult s.value s)

theorem ignoresSchedule_withTransport {work : State → State} (hw : IgnoresSchedule work) :
    IgnoresScheduleOutcome fun s => withTransport s work := fun r s => by
  simp only [withTransport, hw r s]
  rw [apply_ite (mapNext (withSchedule r))]
  rfl

theorem ignoresSchedule_runCommand (c : Byte) : IgnoresScheduleOutcome (runCommand c) := fun r s => by
  rcases runCommand_uniform c with ⟨w, hw, hc⟩ | hc | hc <;> rw [hc, hc]
  · exact hw.ignoresSchedule.next r s
  · exact ignoresSchedule_withTransport ignoresSchedule_sendOp r s
  · exact ignoresSchedule_withTransport ignoresSchedule_accStart r s

theorem ignoresSchedule_runNumber (d : Nibble) (v : Nat) (opc : Byte) :
    IgnoresScheduleOutcome (runNumber d v opc) := fun r s => by
  by_cases hv : v < 2 ^ 32
  · simp only [runNumber, numberSequence, if_pos hv]
    exact ignoresSchedule_withTransport (ignoresSchedule_runScript (madeOfAccesses_numberScript d v opc)) r s
  · simp only [runNumber, numberSequence, if_neg hv]
    rfl

theorem ignoresSchedule_dumpMark : IgnoresSchedule dumpMark := fun r s => by
  rw [dumpMark_eq, dumpMark_eq]
  rfl

theorem ignoresSchedule_runDump : IgnoresScheduleOutcome runDump := fun r s => by
  by_cases hmore : s.host.image.length < 0x1926
  · rw [runDump_address hmore, runDump_address (s := withSchedule r s) hmore, ignoresSchedule_dumpMark]
    exact ignoresSchedule_withTransport (ignoresSchedule_runScript (madeOfAccesses_catScript _ _)) r (dumpMark s)
  · rw [runDump_done (Nat.not_lt.1 hmore), runDump_done (s := withSchedule r s) (Nat.not_lt.1 hmore)]
    rfl

theorem readReg_withSchedule (num : Byte) (r : List ResetIn) (s : State) :
    readReg (withSchedule r s) num = readReg s num := rfl

theorem ignoresSchedule_runRequest (q : Request) : IgnoresScheduleOutcome (runRequest q) := fun r s => by
  cases q with
  | rd num =>
    rw [runRequest, runRequest, readReg_withSchedule]
    cases readReg s num <;> rfl
  | wr num v =>
    rcases writeReg_uniform num v with ⟨e, hw⟩ | ⟨w, ha, hw⟩ <;> simp only [runRequest, hw]
    · rfl
    · rw [ha.ignoresSchedule r s]
      split
      · exact ignoresSchedule_runCommand _ r (w s)
      · rfl
  | rdbuf i =>
    simp only [runRequest]
    split <;> rfl
  | frame f =>
    rw [runRequest, runRequest, runFrame_eq, runFrame_eq]
    exact ignoresSchedule_withTransport (ignoresSchedule_runScript (madeOfAccesses_catScript f _)) r s
  | tune n => exact ignoresSchedule_runNumber _ _ _ r s
  | ctcssTone n => exact ignoresSchedule_runNumber _ _ _ r s
  | rptOfs n => exact ignoresSchedule_runNumber _ _ _ r s
  | flush => exact ignoresSchedule_withTransport (ignoresSchedule_runScript (madeOfAccesses_recv _)) r s
  | dump => exact ignoresSchedule_runDump r (dumpClear s)
  | dumpNext => exact ignoresSchedule_runDump r s

/-! ### The step -/

/-- A live step neither reads nor changes the schedule: it is sampled before the step and not by it. -/
theorem ignoresSchedule_advanceLive : IgnoresScheduleOutcome advanceLive := by
  intro r s
  have hr : (withSchedule r s).rstate = s.rstate := rfl
  have hk : (withSchedule r s).host = s.host := rfl
  unfold advanceLive
  rw [hr, hk]
  cases s.rstate with
  | wait => exact ignoresSchedule_waitStep.next r s
  | read => exact ignoresSchedule_readStep r s
  | idle =>
    cases s.host.task with
    | some k => exact (ignoresSchedule_runScript (madeOfAccesses_taskScript k)).next r (clearTask s)
    | none =>
      cases s.host.queue with
      | nil => rfl
      | cons q rest => exact ignoresSchedule_runRequest q r (popRequest s)

/-- The live step of a state with a schedule, against the step of the same state with none. -/
theorem advanceLive_withSchedule (s : State) (r : List ResetIn) :
    advanceLive (withSchedule r s) = mapNext (fun t => { t with resetIn := r }) (step { s with resetIn := [] }) := by
  rw [step_live { s with resetIn := [] } rfl]
  exact ignoresSchedule_advanceLive r { s with resetIn := [] }

/-- Settles O49: the step is a live step of the state with the rest of the schedule. -/
theorem resetInputThatIsOffChangesNothing : Obligations.ResetInputThatIsOffChangesNothing := by
  intro s r h
  rw [step_off s r h, popReset_eq_withSchedule h, advanceLive_withSchedule]

theorem asserted_low {ls : List Level} (h : ∀ l ∈ ls, l = .low) : asserted ls = false := by
  cases ls with
  | nil => rfl
  | cons l ls => rw [h l List.mem_cons_self]; rfl

/-- A step at whose accesses the reset input stays low is a live step: a sequence run access by access is the
sequence. -/
theorem advanceWithin_low {ls : List Level} (h : ∀ l ∈ ls, l = .low) (s : State) :
    advanceWithin ls s = advanceLive s := by
  rcases advanceWithin_cases ls s with ⟨sc, t, hq, he⟩ | ⟨-, ha, -⟩ | ⟨-, -, he⟩
  · rw [he, runScriptWith_low sc ls t h, advanceLive_sequence s t sc hq]
  · rw [asserted_low h] at ha; cases ha
  · exact he

/-- Settles O52: with every level low the step is a live step of the state with the rest of the schedule. -/
theorem levelsThatStayLowChangeNothing : Obligations.LevelsThatStayLowChangeNothing := by
  intro s ls r h hlow
  rw [step_within s ls r h, advanceWithin_low hlow, popReset_eq_withSchedule h, advanceLive_withSchedule]

end Sys2Proof.Machine
end

section
/-! Reset at a moment of its own (70_reset_and_hazards.md R250 to R252; log 4, 10, 13, 14): before a step, during a
SEND, between two accesses of a host sequence; and the operations that need a transport that was never opened. -/

namespace Sys2Proof.Machine

open Sys2Proof.Claims

/-! ### A transport that was never opened (70_reset_and_hazards.md R252) -/

/-- An instruction that is written as a frame is refused without a transport. -/
theorem exec_frame_unopened {i : Instr} {f : Frame} (hi : encode i = frameBytes f) {s : State}
    (h : s.env.opened = false) : exec i s = .refused .transportNotOpen := by
  rw [exec_of_encode_frame hi, catCommand, withTransport_unopened s _ h]

/-- Settles O12: SEND, ACC and the nine frames all ask for the transport before any work. -/
theorem unopenedTransportIsRefused : Obligations.UnopenedTransportIsRefused := by
  intro s h
  have hframe {i : Instr} {f : Frame} (hi : encode i = frameBytes f) := exec_frame_unopened hi h
  exact ⟨withTransport_unopened s _ h, withTransport_unopened s _ h, fun p0 p1 p2 p3 =>
    ⟨hframe (f := ⟨p0, p1, p2, p3, 0xA7⟩) rfl, hframe (f := ⟨p0, p1, p2, p3, 0x01⟩) rfl,
      hframe (f := ⟨p0, p1, p2, p3, 0x07⟩) rfl, hframe (f := ⟨p0, p1, p2, p3, 0x03⟩) rfl,
      hframe (f := ⟨p0, p1, p2, p3, 0x0A⟩) rfl, hframe (f := ⟨p0, p1, p2, p3, 0x0B⟩) rfl,
      hframe (f := ⟨p0, p1, p2, p3, 0x09⟩) rfl, hframe (f := ⟨p0, p1, p2, p3, 0xF9⟩) rfl,
      hframe (f := ⟨p0, p1, p2, p3, 0xBB⟩) rfl⟩⟩

/-! ### The reset block (10_state.md R46) -/

/-- After a reset no cell is written, so each reads as the free value of that reset (20_memory.md R63; log 4). -/
theorem readBuf_resetBlock (s : State) (i : Nat) : readBuf (resetBlock s) i = Config.bufDraw (s.resets + 1) i := rfl

/-- A reset forgets what the host wrote to the block. -/
theorem HostAccess.resetBlock_eq {w : State → State} (hw : HostAccess w) (s : State) :
    resetBlock (w s) = resetBlock s := by
  cases hw <;> rfl

@[simp] theorem resetBlock_err (s : State) : (resetBlock s).status.err = .none := rfl

/-- TRACE is off after a reset (10_state.md R24, R46). -/
theorem traceSent_resetBlock (bs : List Byte) (s : State) : traceSent bs (resetBlock s) = s.trace :=
  if_neg (by decide : ¬ traceOn State.reset = true)

/-- Settles O50: the step is the reset, whatever the machine was doing. -/
theorem resetRestoresEveryRegister : Obligations.ResetRestoresEveryRegister := by
  intro s r h
  rw [step_on s r h, popReset_eq_withSchedule h]
  exact ⟨_, rfl, rfl, rfl, rfl, rfl, rfl, rfl, rfl, rfl, rfl, rfl, rfl, rfl, rfl, rfl, readBuf_resetBlock _, rfl, rfl,
    rfl, rfl⟩

/-! ### A step that is a host sequence, with a level of the reset input at each access -/

theorem advanceWithin_sequence {s t : State} {sc : Script} (h : stepSequence s = some (sc, t)) (ls : List Level) :
    advanceWithin ls s = .next (runScriptWith ls sc t) := by
  simp only [advanceWithin, h]

/-- A step in which the host goes on with the sequence that awaited an ACC. -/
theorem step_within_task {s : State} {ls : List Level} {r : List ResetIn} {k : Task}
    (hreset : s.resetIn = .within ls :: r) (hidle : s.rstate = .idle) (htask : s.host.task = some k) :
    step s = .next (runScriptWith ls (taskScript k) (clearTask (withSchedule r s))) := by
  have hq : stepSequence (withSchedule r s) = some (taskScript k, clearTask (withSchedule r s)) := by
    simp only [stepSequence, withSchedule, hidle, htask]
  rw [step_within s ls r hreset, popReset_eq_withSchedule hreset, advanceWithin_sequence hq]

/-- A step in which the host makes a request that is a sequence of accesses. -/
theorem step_within_request {s : State} {ls : List Level} {r : List ResetIn} {q : Request} {rest : List Request}
    {sc : Script} (hreset : s.resetIn = .within ls :: r) (hidle : s.rstate = .idle) (htask : s.host.task = none)
    (hqueue : s.host.queue = q :: rest) (hopened : s.env.opened = true)
    (hsc : ∀ u, sequenceOf q u = some (sc, u)) :
    step s = .next (runScriptWith ls sc (issued (withSchedule r s) rest)) := by
  have hpop : popRequest (withSchedule r s) = issued (withSchedule r s) rest := popRequest_eq_issued _ q rest hqueue
  have hq : stepSequence (withSchedule r s) = some (sc, issued (withSchedule r s) rest) := by
    rw [← hpop, ← hsc]
    simp only [stepSequence, withSchedule, hidle, htask, hqueue, hopened, if_true]
  rw [step_within s ls r hreset, popReset_eq_withSchedule hreset, advanceWithin_sequence hq]

/-! ### During a SEND -/

/-- A SEND that is cut short has handed over a built frame, of which the wire has a prefix. -/
theorem sendCutByReset_built {s : State} (h : s.status.fvalid = true) (n : Nat) :
    sendCutByReset n s = resetBlock (handOver (.cutByReset n) s.env s) :=
  if_pos h

/-- Settles O51: the frame is handed over up to the reset, and the reset leaves the transport. -/
theorem resetDuringSendLeavesAPrefix : Obligations.ResetDuringSendLeavesAPrefix := by
  intro s n r rest hreset hidle htask hqueue hopened hbuilt
  have hstep : step s = .next (sendCutByReset n (issued (withSchedule r s) rest)) :=
    step_within_request hreset hidle htask hqueue hopened (sc := .send (.done id)) fun _ => rfl
  rw [hstep, sendCutByReset_built (s := issued (withSchedule r s) rest) hbuilt]
  exact ⟨_, rfl, wireBytes_recordTx s.frame (.cutByReset n) s.env, rfl⟩

/-! ### Between two reads -/

/-- A reset between `RD COUNT` and `RD STATUS`: the host keeps the count and goes on with the reset block. -/
theorem runScriptWith_recvEnd_reset (next : Byte → Script) (s : State) :
    runScriptWith [.low, .high] (recvEnd next) s =
      runScript (next s.count) (giveByte (statusByte State.reset.status) (resetBlock (giveByte s.count s))) := rfl

/-- Settles O54: the count read before the reset is enough for an identity, and its nine bytes are read after. -/
theorem resetBetweenReadsOfTheHost : Obligations.ResetBetweenReadsOfTheHost := by
  intro s r hreset hidle htask hcount
  have hnot : ¬ (clearTask (withSchedule r s)).count.toNat < 9 := Nat.not_lt.2 hcount
  rw [step_within_task hreset hidle htask, taskScript, probeScript, runScriptWith_recvEnd_reset, if_neg hnot,
    runScript_rdbufs, runScript_done]
  refine ⟨_, rfl, ⟨(List.range 9).map (Config.bufDraw (s.resets + 1)), ?_, fun i hi => ?_, rfl⟩, rfl, rfl, rfl, rfl⟩
  · rw [List.length_map, List.length_range]
  · rw [List.getElem?_map, List.getElem?_range hi, Option.map_some]

/-! ### Between two accesses of a frame (44_cat_commands.md R192) -/

/-- Only three opcodes have a response (30_encoding.md R88, R95). -/
theorem responseOf_silent {f : Frame} (h : f.opc ∉ [0xA7, 0x03, 0xBB]) : responseOf f = none := by
  simp only [List.mem_cons, List.not_mem_nil, or_false, not_or, ← BitVec.toNat_inj] at h
  obtain ⟨hprobe, hreadfreq, heeread⟩ := h
  unfold responseOf
  split
  case h_1 hop => exact absurd hop hprobe
  case h_2 hop => exact absurd hop hreadfreq
  case h_3 hop => exact absurd hop heeread
  case h_4 => rfl

/-- The state in which SENDFRAME reads STATUS (44_cat_commands.md R192). -/
def frameHandedOver (f : Frame) (s : State) : State :=
  sendOp (buildOp (wrOp f.opc (wrP 3 f.b3 (wrP 2 f.b2 (wrP 1 f.b1 (wrP 0 f.b0 s))))))

theorem frameHandedOver_ok (f : Frame) {s : State} (h : txAnswer s.env = .ok) : frameHandedOver f s = { s with
    p := frameParams f, op := f.opc, frame := f
    status := { s.status with fvalid := true, err := .none }
    env := envAfterSend s f .whole, trace := traceSent (frameBytes f) s } := by
  rw [frameHandedOver, sendFrame_sends, h]
  rfl

/-- `RD STATUS` of SENDFRAME and what follows it. -/
def readStatus (next : Byte → Script) : Script := .rdByte (fun s => statusByte s.status) next

/-- The host has read STATUS and notes the frame as sent. -/
def notedAsSent (f : Frame) (s : State) : State := report (.frameSent f.opc) (giveByte (statusByte s.status) s)

/-- The host takes any STATUS but a write failure for a frame that was sent (44_cat_commands.md R192). -/
theorem runScript_readStatus (f : Frame) {s : State} (h : s.status.err ≠ .txError) :
    runScript (readStatus (afterStatus f none)) s = notedAsSent f s := by
  rw [readStatus, runScript_rdByte, afterStatus_silent f _ h]
  rfl

/-- The accesses up to SEND of SENDFRAME: five writes and BUILD. -/
def frameAccesses (f : Frame) : List (State → State) :=
  [wrP 0 f.b0, wrP 1 f.b1, wrP 2 f.b2, wrP 3 f.b3, wrOp f.opc, buildOp]

theorem hostAccess_of_mem_frameAccesses (f : Frame) : ∀ w ∈ frameAccesses f, HostAccess w := by
  simp only [frameAccesses, List.forall_mem_cons]
  exact ⟨.p 0 _, .p 1 _, .p 2 _, .p 3 _, .op _, .build, nofun⟩

theorem sendFrame_eq_accesses (f : Frame) (next : Byte → Script) :
    sendFrame f next = (frameAccesses f).foldr .access (.send (readStatus next)) := rfl

/-- The state after a list of accesses. -/
def afterAccesses (ws : List (State → State)) (s : State) : State := ws.foldl (fun t w => w t) s

/-- Accesses without a reset. -/
theorem runScript_accesses (ws : List (State → State)) (next : Script) (s : State) :
    runScript (ws.foldr .access next) s = runScript next (afterAccesses ws s) := by
  induction ws generalizing s with
  | nil => rfl
  | cons w ws ih => exact ih (w s)

/-- Accesses at which the reset input is low. -/
theorem runScriptWith_low_accesses (ws : List (State → State)) (ls : List Level) (next : Script) (s : State) :
    runScriptWith (List.replicate ws.length .low ++ ls) (ws.foldr .access next) s =
      runScriptWith ls next (afterAccesses ws s) := by
  induction ws generalizing s with
  | nil => rfl
  | cons w ws ih => exact ih (w s)

/-- A reset after the first `k` accesses forgets them, and the sequence goes on from the reset block with the others. -/
theorem runScriptWith_reset_accesses {ws : List (State → State)} (hws : ∀ w ∈ ws, HostAccess w) {k : Nat}
    (hk : k ≤ ws.length) (next : Script) (s : State) :
    runScriptWith (List.replicate k .low ++ [.high]) (ws.foldr .access (.send next)) s =
      runScript ((ws.drop k).foldr .access (.send next)) (resetBlock s) := by
  induction k generalizing ws s with
  | zero => cases ws <;> rfl
  | succ k ih =>
    cases ws with
    | nil => exact absurd hk (Nat.not_succ_le_zero k)
    | cons w ws =>
      obtain ⟨hw, hrest⟩ := List.forall_mem_cons.1 hws
      rw [← hw.resetBlock_eq s]
      exact ih hrest (Nat.le_of_succ_le_succ hk) (w s)

/-- The writes that are left after a reset are those of a frame with zeros in place of the bytes written before it. -/
theorem sendOp_rest_of_frame {k : Nat} (hk : k ≤ 5) (f : Frame) (s : State) :
    sendOp (afterAccesses ((frameAccesses f).drop k) (resetBlock s)) =
      frameHandedOver (zeroBefore k f) (resetBlock s) := by
  refine congrArg sendOp ?_
  match k, hk with
  | 0, _ | 1, _ | 2, _ | 3, _ | 4, _ | 5, _ => rfl

/-- A reset before one of the five writes or BUILD. -/
theorem runScriptWith_sendFrame_writes {k : Nat} (hk : k ≤ 5) (f : Frame) (next : Byte → Script) (s : State) :
    runScriptWith (List.replicate k .low ++ [.high]) (sendFrame f next) s =
      runScript (readStatus next) (frameHandedOver (zeroBefore k f) (resetBlock s)) := by
  rw [sendFrame_eq_accesses, runScriptWith_reset_accesses (hostAccess_of_mem_frameAccesses f) (Nat.le_succ_of_le hk),
    runScript_accesses, runScript_send, sendOp_rest_of_frame hk]

/-- A reset between BUILD and SEND leaves SEND no frame. -/
theorem runScriptWith_sendFrame_built (f : Frame) (next : Byte → Script) (s : State) :
    runScriptWith (List.replicate 6 .low ++ [.high]) (sendFrame f next) s =
      runScript (readStatus next) (raise .frameNotBuilt (resetBlock s)) := by
  rw [← sendOp_unbuilt (resetBlock s) rfl]
  exact runScriptWith_reset_accesses (k := 6) (hostAccess_of_mem_frameAccesses f) le_rfl (readStatus next) s

/-- A reset between SEND and RD STATUS finds the frame sent. -/
theorem runScriptWith_sendFrame_sent (f : Frame) (next : Byte → Script) (s : State) :
    runScriptWith (List.replicate 7 .low ++ [.high]) (sendFrame f next) s =
      runScript (readStatus next) (resetBlock (frameHandedOver f s)) :=
  runScriptWith_low_accesses (frameAccesses f) [.low, .high] (.send (readStatus next)) s

/-- Settles O53: the reset falls before a write or BUILD, before SEND, or before RD STATUS, and in each case the host
reads no write failure. -/
theorem resetBetweenAccessesOfAFrame : Obligations.ResetBetweenAccessesOfAFrame := by
  intro s f k r rest hopc hk hreset hidle htask hqueue ⟨hopened, hanswer⟩
  have hstep := step_within_request hreset hidle htask hqueue hopened (sc := catScript f none) fun u => by
    rw [sequenceOf, responseOf_silent hopc]
  have hcases : k ≤ 5 ∨ k = 6 ∨ k = 7 := by omega
  rw [hstep, catScript]
  rcases hcases with hwrites | rfl | rfl
  · have hsent := frameHandedOver_ok (zeroBefore k f) (s := resetBlock (issued (withSchedule r s) rest)) hanswer
    rw [runScriptWith_sendFrame_writes hwrites, hsent, runScript_readStatus f (by simp)]
    exact ⟨_, rfl, fun _ => ⟨rfl, rfl, rfl, rfl, traceSent_resetBlock _ _, rfl⟩, fun h => by omega,
      fun h => by omega, rfl⟩
  · rw [runScriptWith_sendFrame_built, runScript_readStatus f (by simp)]
    exact ⟨_, rfl, nofun, fun _ => ⟨rfl, rfl, rfl, rfl, rfl, rfl⟩, nofun, rfl⟩
  · have hsent := frameHandedOver_ok f (s := issued (withSchedule r s) rest) hanswer
    rw [runScriptWith_sendFrame_sent, hsent, runScript_readStatus f (by simp)]
    exact ⟨_, rfl, nofun, nofun, fun _ => ⟨rfl, rfl, rfl, rfl, rfl, rfl⟩, rfl⟩

end Sys2Proof.Machine
end
